-- ==== Sys2Proof/Word.lean ====
section
/-! DEFINITION. The word and byte types of the block: all register words are 32 bits (R12, R20), the
FIFO and the caller buffer hold bytes (R40, R80). -/

namespace Sys2Proof

/-- A register word, 32 bits; bit 0 is the least significant (R12). -/
abbrev Word := BitVec 32

/-- A byte of the FIFO, of the card stream or of the caller buffer (R40, R80). -/
abbrev Byte := BitVec 8

end Sys2Proof
end

