-- ==== Sys2Proof/Config.lean ====
section
/-! DEFINITION. The configuration of the block and its sequencer (R9, R10, R11, R17): REG_OFFSETS, LAYOUT, the values of
software reset, and every parameter the source leaves open, as one record with the spec's defaults; the free values
(R13 `draw`). The record is a field of State that no step changes (log entry 22), so that every claim is made for every
configuration R118 admits and none rests on a position. -/

namespace Sys2Proof

/-- A field of a register word: its lowest bit and its width (R12). -/
structure Field where
  lo : Nat
  width : Nat
  deriving DecidableEq, Repr

/-- The one-bit field at a bit position. -/
def flag (n : Nat) : Field := ⟨n, 1⟩

namespace Config

/-! ## Parameters the source states (R9) -/

/-- Width of the command index. -/
abbrev indexWidth : Nat := 6
/-- Width of the block-count field. -/
abbrev blknumWidth : Nat := 11
/-- Largest accepted block count. -/
abbrev blknumMax : Nat := 2047
/-- The bus widths a descriptor may name. -/
abbrev busWidths : List Nat := [1, 4]
/-- Lowest operating frequency advertised, in Hz; consumed by the layer above (R321, R366). -/
abbrev fMin : Nat := 400000
/-- Highest operating frequency advertised for a source clock rate, in Hz; consumed by the layer above. -/
def fMax (rate : Nat) : Nat := rate / 2

/-! ## REG_OFFSETS (R20, D1) -/

/-- The byte offset of each register from BASE. Default: stride 4, in the source's order. -/
structure Offsets where
  con : Nat := 0x00
  pre : Nat := 0x04
  carg : Nat := 0x08
  ccon : Nat := 0x0C
  csta : Nat := 0x10
  rsp0 : Nat := 0x14
  rsp1 : Nat := 0x18
  rsp2 : Nat := 0x1C
  rsp3 : Nat := 0x20
  dtimer : Nat := 0x24
  bsize : Nat := 0x28
  dcon : Nat := 0x2C
  dcnt : Nat := 0x30
  dsta : Nat := 0x34
  fsta : Nat := 0x38
  imsk : Nat := 0x3C
  dat : Nat := 0x40
  deriving DecidableEq, Repr

/-- The 17 offsets in the source's order. -/
def Offsets.toList (o : Offsets) : List Nat :=
  [o.con, o.pre, o.carg, o.ccon, o.csta, o.rsp0, o.rsp1, o.rsp2, o.rsp3, o.dtimer, o.bsize, o.dcon, o.dcnt, o.dsta,
   o.fsta, o.imsk, o.dat]

/-! ## LAYOUT (R111 to R118, D2): bit positions are configuration, not facts about a chip (R17)

A number is the position of a one-bit field, or the lowest bit of INDEX or BLKNUM, whose widths R118 fixes; CARG, RSP0
to RSP3, IMSK and DAT are whole words. The defaults are log entry 7. -/

/-- CON (R111). -/
structure ConLayout where
  sdreset : Nat := 8
  clktype : Nat := 5
  fiforeset : Nat := 1
  deriving DecidableEq, Repr

/-- CCON (R112). -/
structure CconLayout where
  index : Nat := 0
  senderhost : Nat := 6
  cmdstart : Nat := 8
  waitrsp : Nat := 9
  longrsp : Nat := 10
  deriving DecidableEq, Repr

/-- CSTA (R113). -/
structure CstaLayout where
  cmdon : Nat := 8
  rspfin : Nat := 9
  cmdtimeout : Nat := 10
  cmdsent : Nat := 11
  deriving DecidableEq, Repr

/-- DCON (R114), with the values of DATMODE that start a phase and the value of DATASIZE that selects words. DATMODE may stand
in two places, so that RX-start and TX-start can be two separate bits: one packed field is "part of the default only" (R30,
D2). -/
structure DconLayout where
  blknum : Nat := 0
  /-- DATMODE, or its low bits. -/
  datmode : Field := ⟨12, 2⟩
  /-- The bits of DATMODE above those; none by default. -/
  datmodeHigh : Field := ⟨0, 0⟩
  datstart : Nat := 14
  widebus : Nat := 16
  blockmode : Nat := 17
  racmd : Nat := 19
  tarsp : Nat := 20
  datasize : Field := ⟨22, 2⟩
  rxStart : Word := 2#32
  txStart : Word := 3#32
  wordSize : Word := 2#32
  deriving DecidableEq, Repr

/-- DSTA (R115). -/
structure DstaLayout where
  xferfinish : Nat := 4
  datatimeout : Nat := 5
  rxcrcfail : Nat := 6
  crcfail : Nat := 7
  fifofail : Nat := 8
  deriving DecidableEq, Repr

/-- FSTA (R116); the width of COUNT is FIFO_COUNT_WIDTH. -/
structure FstaLayout where
  count : Field := ⟨0, 7⟩
  tfhalf : Nat := 11
  deriving DecidableEq, Repr

/-- LAYOUT. The widths of `pre`, `dtimer` and `bsize` are PRE_WIDTH, DTIMER_WIDTH and BSIZE_WIDTH (R117). -/
structure Layout where
  con : ConLayout := {}
  pre : Field := ⟨0, 8⟩
  ccon : CconLayout := {}
  csta : CstaLayout := {}
  dtimer : Field := ⟨0, 23⟩
  bsize : Field := ⟨0, 12⟩
  dcon : DconLayout := {}
  dsta : DstaLayout := {}
  fsta : FstaLayout := {}
  deriving DecidableEq, Repr

/-- CCON.INDEX. -/
def CconLayout.indexField (l : CconLayout) : Field := ⟨l.index, indexWidth⟩
/-- DCON.BLKNUM. -/
def DconLayout.blknumField (l : DconLayout) : Field := ⟨l.blknum, blknumWidth⟩
/-- A value of DATMODE by itself, both parts together. -/
def DconLayout.datmodeValue (l : DconLayout) : Field := ⟨0, l.datmode.width + l.datmodeHigh.width⟩

/-- The named fields of CON. -/
def ConLayout.fields (l : ConLayout) : List Field := [flag l.sdreset, flag l.clktype, flag l.fiforeset]
/-- The stored fields of CCON: CMDSTART is an action. -/
def CconLayout.stored (l : CconLayout) : List Field :=
  [l.indexField, flag l.senderhost, flag l.waitrsp, flag l.longrsp]
/-- The named fields of CCON. -/
def CconLayout.fields (l : CconLayout) : List Field := flag l.cmdstart :: l.stored
/-- The named fields of CSTA, the 4-bit group. -/
def CstaLayout.fields (l : CstaLayout) : List Field :=
  [flag l.cmdon, flag l.rspfin, flag l.cmdtimeout, flag l.cmdsent]
/-- The stored fields of DCON: DATSTART is an action. -/
def DconLayout.stored (l : DconLayout) : List Field :=
  [l.blknumField, l.datmode, l.datmodeHigh, flag l.widebus, flag l.blockmode, flag l.racmd, flag l.tarsp, l.datasize]
/-- The named fields of DCON. -/
def DconLayout.fields (l : DconLayout) : List Field := flag l.datstart :: l.stored
/-- The four error flags of DSTA. -/
def DstaLayout.errors (l : DstaLayout) : List Field :=
  [flag l.fifofail, flag l.crcfail, flag l.rxcrcfail, flag l.datatimeout]
/-- The named fields of DSTA. -/
def DstaLayout.fields (l : DstaLayout) : List Field := flag l.xferfinish :: l.errors
/-- The named fields of FSTA. -/
def FstaLayout.fields (l : FstaLayout) : List Field := [l.count, flag l.tfhalf]

/-! ## Reset values (R17, R70, R381) -/

/-- What software reset leaves in the fields that PROBE or SET_CLOCK writes again or that no step reads before it is
written: the fields D6 says a chip may keep. Default: 0 (D6). Flags, DCON, response registers, FIFO and engines are no
parameter: the reset "must at least restore" them (D6). Log entry 33. -/
structure ResetValues where
  clktype : Bool := false
  div : Word := 0#32
  carg : Word := 0#32
  index : BitVec 6 := 0#6
  senderhost : Bool := false
  waitrsp : Bool := false
  longrsp : Bool := false
  dtimer : Word := 0#32
  bsize : Word := 0#32
  imsk : Word := 0#32
  deriving DecidableEq, Repr

/-! ## Settle delays (R10) -/

/-- SETTLE_RESET, the settle delay after software reset. OPEN: no rule reads it (R383); no definition of the
model does either. Log entry 16. -/
opaque settleReset : Nat
/-- SETTLE_CLOCK, the settle delay after a prescaler write. OPEN: no rule reads it (R405); no definition of
the model does either. Log entry 16. -/
opaque settleClock : Nat

/-! ## Values the model names where the spec gives none -/

/-- What a byte of the caller buffer reads as that nothing has written. DESIGN CHOICE, log entry 6. -/
abbrev unlistedByte : Byte := 0#8

/-! ## Free values -/

/-- The word the environment draws (R13 `draw`), for the n-th draw of a run: nothing constrains it. The
counter is the field `draws` of State. Log entry 4. -/
opaque freeWord : Nat → Word

end Config

/-! ## The configuration -/

/-- The configuration of one instance. BASE and CLOCK_NAME are operands of PROBE (R310). -/
structure Config where
  /-- REG_OFFSETS (D1). -/
  offsets : Config.Offsets := {}
  /-- LAYOUT (D2). -/
  layout : Config.Layout := {}
  /-- What software reset leaves (D6). -/
  reset : Config.ResetValues := {}
  /-- FIFO_DEPTH, the capacity of the FIFO in bytes (D9). -/
  fifoDepth : Nat := 64
  /-- TX_READY_LEVEL, the occupancy at or below which TFHALF reads 1 (D10). -/
  txReadyLevel : Nat := fifoDepth / 2
  /-- CMD_POLL_BOUND, iteration bound of the command-status poll (R9). -/
  cmdPollBound : Nat := 100000
  /-- DONE_POLL_BOUND, iteration bound of the completion poll (D27). -/
  donePollBound : Nat := 100000
  /-- DTIMER_INIT, the value PROBE writes to the data timer (D35). -/
  dtimerInit : Word := 0x007FFFFF#32
  /-- BSIZE_INIT, the value PROBE writes to the block-size register (D35). -/
  bsizeInit : Word := 512#32
  /-- CLKTYPE_INIT, the clock edge/type PROBE selects (D8). -/
  clktypeInit : Bool := true
  /-- DSTA_DONE_CLEAR, the fixed clear pattern of the completion waiter (D28). -/
  dstaDoneClear : Word := 0x000001F0#32
  /-- CLEAR_DCON_ON_FAILURE (R11): the reference leaves the register alone. -/
  clearDconOnFailure : Bool := false
  /-- DATA_LOOP_BOUND (R11): the reference has none. -/
  dataLoopBound : Option Nat := none
  deriving DecidableEq, Repr

/-- The spec's defaults and the reference values, which are the normative ones (R9, R10, R11). -/
def Config.reference : Config := {}

end Sys2Proof
end

