-- ==== Sys2Proof/Syntax.lean ====
section
/-! DEFINITION. The operations of the block: one constructor of `Instr` per row of spec/opcode_table.json
(R6, R110 to R126, R281 to R331), the objects they take (R63), and the encoded form an operation has
before it is decoded. -/

namespace Sys2Proof

/-! ## Objects the operations take -/

/-- The 17 registers in the source's order (R20). -/
inductive Reg where
  | con | pre | carg | ccon | csta | rsp0 | rsp1 | rsp2 | rsp3
  | dtimer | bsize | dcon | dcnt | dsta | fsta | imsk | dat
  deriving DecidableEq, Repr

/-- Direction of a host access: read or write (R110). -/
inductive Dir where
  | read | write
  deriving DecidableEq, Repr

/-- The response a command expects (R63). -/
inductive RspKind where
  | none | short | long
  deriving DecidableEq, Repr

/-- A command: "Immutable once submitted" (R63). -/
structure Command where
  index : BitVec 6
  argument : Word
  kind : RspKind
  deriving DecidableEq, Repr

/-- Direction of a data phase: `rx` moves data from the card to the caller, `tx` the other way (R16, R42). -/
inductive Direction where
  | rx | tx
  deriving DecidableEq, Repr

/-- A data descriptor (R63). The buffer is the caller's byte region; its bytes are the buffer space of
State, at offsets 0 to `bufferLength - 1` (R80). The naturals are unbounded, so that a descriptor
outside the contract can be written and is turned away by EXECUTE (R133). -/
structure Descriptor where
  direction : Direction
  blockSize : Nat
  blockCount : Nat
  busWidth : Nat
  bufferLength : Nat
  deriving DecidableEq, Repr

/-- The platform's binding, the operands of PROBE (R310): the register base or nothing (R346), the name of
the clock, and the names of the two lines. -/
structure Binding where
  base : Option Nat
  clockName : Nat
  cdRef : Nat
  wpRef : Nat
  deriving DecidableEq, Repr

/-! ## The operations -/

/-- One constructor per row of spec/opcode_table.json. -/
inductive Instr where
  -- register accesses (40_register_access.md)
  | rdCon | wrCon (v : Word)
  | rdPre | wrPre (v : Word)
  | rdCarg | wrCarg (v : Word)
  | rdCcon | wrCcon (v : Word)
  | rdCsta | wrCsta (v : Word)
  | rdRsp0 | wrRsp0 (v : Word)
  | rdRsp1 | wrRsp1 (v : Word)
  | rdRsp2 | wrRsp2 (v : Word)
  | rdRsp3 | wrRsp3 (v : Word)
  | rdDtimer | wrDtimer (v : Word)
  | rdBsize | wrBsize (v : Word)
  | rdDcon | wrDcon (v : Word)
  | rdDcnt | wrDcnt (v : Word)
  | rdDsta | wrDsta (v : Word)
  | rdFsta | wrFsta (v : Word)
  | rdImsk | wrImsk (v : Word)
  | rdDat | wrDat (v : Word)
  -- forms of the word written to CON (R111)
  | conReset
  | conCfg (clktype fiforeset : Bool)
  -- forms of the word written to CCON (R112)
  | cmdNorsp (index : BitVec 6)
  | cmdShort (index : BitVec 6)
  | cmdLong (index : BitVec 6)
  | cconStore (index : BitVec 6) (senderhost waitrsp longrsp : Bool)
  -- forms of the word written to DCON (R114)
  | dataRx (blknum : BitVec 11) (widebus : Bool)
  | dataTx (blknum : BitVec 11) (widebus : Bool)
  | dataOff
  -- session operations (43_session_operations.md)
  | execute (cmd : Command) (data : Option Descriptor)
  | issue (cmd : Command) (data : Option Descriptor)
  | readResponse (kind : RspKind)
  | transfer (data : Descriptor)
  | waitCompletion
  | probe (binding : Binding)
  | setClock (target : Nat)
  | cardPresent
  | writeProtected
  -- device events (41_command_engine.md, 42_data_engine.md). `stops` is the environment's choice of R264.
  | evCmdSent
  | evRspShort (w : Word)
  | evRspLong (w0 w1 w2 w3 : Word)
  | evRspTimeout
  | evRxBytes (bs : List Byte)
  | evTxBytes (k : Nat)
  | evDataFinish
  | evCrcFail (stops : Bool)
  | evRxcrcFail (stops : Bool)
  | evDataTimeout (stops : Bool)
  | evFifoFail (stops : Bool)
  deriving DecidableEq, Repr

/-- The device events: steps of the engines and of the card environment, not of the host (R7, R14). -/
def Instr.isEvent : Instr → Bool
  | .evCmdSent | .evRspShort _ | .evRspLong _ _ _ _ | .evRspTimeout | .evRxBytes _ | .evTxBytes _
  | .evDataFinish | .evCrcFail _ | .evRxcrcFail _ | .evDataTimeout _ | .evFifoFail _ => true
  | _ => false

/-- The four sub-steps of EXECUTE (R280). -/
def Instr.isSubStep : Instr → Bool
  | .issue _ _ | .readResponse _ | .transfer _ | .waitCompletion => true
  | _ => false

/-! ## The encoded form

R110 to R116 give an operation as a pair (dir, offset) with a data word, or as the word of one of the
three control formats; R119 and R126 number the session operations and the events and say that their
operands have no binary form. `Encoded` is exactly that. Log entry 9. -/

/-- Operands of a session operation or of an event, as records (R119, R126). -/
inductive Operand where
  | none
  | request (cmd : Command) (data : Option Descriptor)
  | kind (k : RspKind)
  | descriptor (d : Descriptor)
  | binding (b : Binding)
  | target (hz : Nat)
  | word (w : Word)
  | words (w0 w1 w2 w3 : Word)
  | bytes (bs : List Byte)
  | count (k : Nat)
  | stops (b : Bool)
  deriving DecidableEq, Repr

/-- An operation before decoding. -/
inductive Encoded where
  /-- Format RA (R110), with the width in bits and the offset from BASE of the access, so that accesses of
  another width or at another offset can be written and are turned away (R88, R89). -/
  | access (dir : Dir) (width offset : Nat) (word : Word)
  /-- Format CN: a word written to CON, by its form (R111). -/
  | cn (word : Word)
  /-- Format CC: a word written to CCON, by its form (R112). -/
  | cc (word : Word)
  /-- Format DC: a word written to DCON, by its form (R114). -/
  | dc (word : Word)
  /-- Format REQ: the selector, under mask 0xF, and the request record (R119). -/
  | req (selector : BitVec 4) (operand : Operand)
  /-- Format EV: the event's number, under mask 0xF, and its arguments (R126). -/
  | ev (number : BitVec 4) (operand : Operand)
  deriving DecidableEq, Repr

end Sys2Proof
end

