-- ==== Sys2Proof/WellFormed.lean ====
section
/-! DEFINITION. Which terms of `Instr` are operations. Field widths are in the types; what is left are the
arguments of the two data-movement events (R250, R251). The contract of a descriptor (R133) is not here: EXECUTE
itself decides, in the order R281 gives, between an outcome and a refusal. -/

namespace Sys2Proof

/-- EV.RX_BYTES takes "a non-empty sequence" (R250) and EV.TX_BYTES a count `k` with `1 <= k` (R251); every
other operation is well formed whatever its operands. -/
def Instr.wf : Instr → Bool
  | .evRxBytes bs => !bs.isEmpty
  | .evTxBytes k => decide (1 ≤ k)
  | _ => true

end Sys2Proof
end

