-- ==== Sys2Proof/Decode.lean ====
section
/-! DEFINITION. Decoding and encoding of operations (30_encoding.md), under a configuration: no position, width or offset
is a literal here. `decode` is total and rejects by name; `encode` gives the encoded form of an operation, written from
the same tables. -/

namespace Sys2Proof

/-! ## Bit fields (R12) -/

/-- The word whose bit `n` is `b` and whose other bits are 0. -/
def bitWord (n : Nat) (b : Bool) : Word := if b then 1#32 <<< n else 0#32

/-- `w[n]` (R12). -/
def bitAt (w : Word) (n : Nat) : Bool := w.getLsbD n

/-- The word whose `n` lowest bits are 1. -/
def lowMask (n : Nat) : Word := BitVec.ofNat 32 (2 ^ n - 1)

/-- A value cut to the width of a field. -/
def Field.clip (f : Field) (v : Word) : Word := v &&& lowMask f.width

/-- `w[hi:lo]` (R12), as a word. -/
def Field.get (f : Field) (w : Word) : Word := f.clip (w >>> f.lo)

/-- The word that holds a value in a field and 0 elsewhere. -/
def Field.put (f : Field) (v : Word) : Word := f.clip v <<< f.lo

/-- The bits of a field. -/
def Field.mask (f : Field) : Word := lowMask f.width <<< f.lo

/-- The largest value that fits a field: PRE_MAX, BSIZE_MAX (R10). -/
def Field.max (f : Field) : Nat := 2 ^ f.width - 1

/-- The bits of several fields. -/
def maskOf : List Field → Word
  | [] => 0#32
  | f :: fs => f.mask ||| maskOf fs

/-- The word that holds each value in its field. -/
def wordOf : List (Field × Word) → Word
  | [] => 0#32
  | fv :: fvs => fv.1.put fv.2 ||| wordOf fvs

/-- The value of a one-bit field. -/
def ofFlag (b : Bool) : Word := if b then 1#32 else 0#32

/-! ## Register offsets (R20, parameter REG_OFFSETS) -/

/-- The byte offset of a register from BASE. -/
def Reg.offset (o : Config.Offsets) : Reg → Nat
  | .con => o.con | .pre => o.pre | .carg => o.carg | .ccon => o.ccon | .csta => o.csta
  | .rsp0 => o.rsp0 | .rsp1 => o.rsp1 | .rsp2 => o.rsp2 | .rsp3 => o.rsp3
  | .dtimer => o.dtimer | .bsize => o.bsize | .dcon => o.dcon | .dcnt => o.dcnt
  | .dsta => o.dsta | .fsta => o.fsta | .imsk => o.imsk | .dat => o.dat

/-- The 17 registers in order. -/
def Reg.all : List Reg :=
  [.con, .pre, .carg, .ccon, .csta, .rsp0, .rsp1, .rsp2, .rsp3, .dtimer, .bsize, .dcon, .dcnt, .dsta, .fsta,
   .imsk, .dat]

/-- The register at an offset, if there is one (R89). -/
def Reg.ofOffset (o : Config.Offsets) (offset : Nat) : Option Reg := Reg.all.find? fun r => r.offset o == offset

/-! ## Control words -/

/-- A command-control word from its fields (R112). -/
def cconFormWord (l : Config.CconLayout) (index : BitVec 6) (senderhost cmdstart waitrsp longrsp : Bool) : Word :=
  wordOf [(flag l.cmdstart, ofFlag cmdstart), (l.indexField, index.setWidth 32), (flag l.senderhost, ofFlag senderhost),
    (flag l.waitrsp, ofFlag waitrsp), (flag l.longrsp, ofFlag longrsp)]

/-- CCON.INDEX of a word. -/
def indexOf (l : Config.CconLayout) (w : Word) : BitVec 6 := (l.indexField.get w).setWidth 6

/-- WAITRSP and LONGRSP of an arming command-control word of one of the three forms (R112, R159); none for a reserved word:
an unnamed bit, SENDERHOST = 0, or LONGRSP without WAITRSP (R130, log entry 10). -/
def commandForm (l : Config.CconLayout) (w : Word) : Option (Bool × Bool) :=
  if w &&& ~~~maskOf l.fields = 0#32 ∧ bitAt w l.senderhost = true ∧
      (bitAt w l.longrsp = true → bitAt w l.waitrsp = true) then
    some (bitAt w l.waitrsp, bitAt w l.longrsp)
  else none

/-- DCON.DATMODE of a word, both parts together (R114, D2). -/
def Config.DconLayout.modeOf (l : Config.DconLayout) (w : Word) : Word :=
  l.datmode.get w ||| l.datmodeHigh.get w <<< l.datmode.width

/-- A data-control word from its fields (R114). -/
def dconFieldsWord (l : Config.DconLayout) (blknum : BitVec 11) (datmode : Word)
    (datstart widebus blockmode racmd tarsp : Bool) (datasize : Word) : Word :=
  wordOf [(flag l.datstart, ofFlag datstart), (l.blknumField, blknum.setWidth 32), (l.datmode, datmode),
    (l.datmodeHigh, datmode >>> l.datmode.width), (flag l.widebus, ofFlag widebus), (flag l.blockmode, ofFlag blockmode), (flag l.racmd, ofFlag racmd),
    (flag l.tarsp, ofFlag tarsp), (l.datasize, datasize)]

/-- The arming word of a direction (R114, R121). -/
def dataFormWord (l : Config.DconLayout) (dir : Direction) (blknum : BitVec 11) (widebus : Bool) : Word :=
  match dir with
  | .rx => dconFieldsWord l blknum l.rxStart true widebus true true false l.wordSize
  | .tx => dconFieldsWord l blknum l.txStart true widebus true false true l.wordSize

/-- DCON.BLKNUM of a word. -/
def blknumOf (l : Config.DconLayout) (w : Word) : BitVec 11 := (l.blknumField.get w).setWidth 11

/-- The mask under which an arming form is selected: every bit but BLKNUM and WIDEBUS (R114). -/
def dconFormMask (l : Config.DconLayout) : Word := ~~~maskOf [l.blknumField, flag l.widebus]

/-- The direction of an arming data-control word; none for a word of neither form (R114, R131). -/
def dataForm (l : Config.DconLayout) (w : Word) : Option Direction :=
  if w &&& dconFormMask l = dataFormWord l .rx 0#11 false then some .rx
  else if w &&& dconFormMask l = dataFormWord l .tx 0#11 false then some .tx
  else none

/-! ## Decoding -/

/-- Why an encoded form is no operation. Raised by `decode`; each is a refusal of the spec (R15), so it is safe. -/
inductive DecodeError where
  /-- An access of a width other than 32 bits (R88). -/
  | accessWidth
  /-- An access at an offset that is no multiple of 4 (R89). -/
  | misaligned
  /-- An access at an offset not in the register table (R89). -/
  | noRegister
  /-- A reserved command-control word (R130). -/
  | reservedCommandWord
  /-- A reserved data-control word (R131). -/
  | reservedDataWord
  /-- A selector above 8 (R119). -/
  | noSelector
  /-- An event number above 10 (R126). -/
  | noEvent
  /-- Operands that are not those of the selected operation (R119, R126). -/
  | wrongOperand
  deriving DecidableEq, Repr

/-- The operation of a register access (R110, and R151 to R184). The data word of a read is not used. -/
def decodeRegister : Dir → Reg → Word → Instr
  | .read, .con, _ => .rdCon
  | .read, .pre, _ => .rdPre
  | .read, .carg, _ => .rdCarg
  | .read, .ccon, _ => .rdCcon
  | .read, .csta, _ => .rdCsta
  | .read, .rsp0, _ => .rdRsp0
  | .read, .rsp1, _ => .rdRsp1
  | .read, .rsp2, _ => .rdRsp2
  | .read, .rsp3, _ => .rdRsp3
  | .read, .dtimer, _ => .rdDtimer
  | .read, .bsize, _ => .rdBsize
  | .read, .dcon, _ => .rdDcon
  | .read, .dcnt, _ => .rdDcnt
  | .read, .dsta, _ => .rdDsta
  | .read, .fsta, _ => .rdFsta
  | .read, .imsk, _ => .rdImsk
  | .read, .dat, _ => .rdDat
  | .write, .con, v => .wrCon v
  | .write, .pre, v => .wrPre v
  | .write, .carg, v => .wrCarg v
  | .write, .ccon, v => .wrCcon v
  | .write, .csta, v => .wrCsta v
  | .write, .rsp0, v => .wrRsp0 v
  | .write, .rsp1, v => .wrRsp1 v
  | .write, .rsp2, v => .wrRsp2 v
  | .write, .rsp3, v => .wrRsp3 v
  | .write, .dtimer, v => .wrDtimer v
  | .write, .bsize, v => .wrBsize v
  | .write, .dcon, v => .wrDcon v
  | .write, .dcnt, v => .wrDcnt v
  | .write, .dsta, v => .wrDsta v
  | .write, .fsta, v => .wrFsta v
  | .write, .imsk, v => .wrImsk v
  | .write, .dat, v => .wrDat v

/-- Format RA: 32 bits, at one of the 17 offsets (R88, R89). -/
def decodeAccess (o : Config.Offsets) (dir : Dir) (width offset : Nat) (w : Word) : Except DecodeError Instr :=
  if width ≠ 32 then .error .accessWidth
  else if offset % 4 ≠ 0 then .error .misaligned
  else match Reg.ofOffset o offset with
    | none => .error .noRegister
    | some r => .ok (decodeRegister dir r w)

/-- Format CN (R111): SDRESET = 1 is CON.RESET, whose other bits are ignored; SDRESET = 0 is CON.CFG. -/
def decodeCn (l : Config.ConLayout) (w : Word) : Instr :=
  if bitAt w l.sdreset then .conReset else .conCfg (bitAt w l.clktype) (bitAt w l.fiforeset)

/-- Format CC (R112), with the reserved words of R130. -/
def decodeCc (l : Config.CconLayout) (w : Word) : Except DecodeError Instr :=
  if bitAt w l.cmdstart then
    match commandForm l w with
    | none => .error .reservedCommandWord
    | some (_, true) => .ok (.cmdLong (indexOf l w))
    | some (true, false) => .ok (.cmdShort (indexOf l w))
    | some (false, false) => .ok (.cmdNorsp (indexOf l w))
  else .ok (.cconStore (indexOf l w) (bitAt w l.senderhost) (bitAt w l.waitrsp) (bitAt w l.longrsp))

/-- Format DC (R114), with the reserved words of R131. -/
def decodeDc (l : Config.DconLayout) (w : Word) : Except DecodeError Instr :=
  if w = 0#32 then .ok .dataOff
  else match dataForm l w with
    | none => .error .reservedDataWord
    | some .rx => .ok (.dataRx (blknumOf l w) (bitAt w l.widebus))
    | some .tx => .ok (.dataTx (blknumOf l w) (bitAt w l.widebus))

/-- Format REQ: selectors 0 to 8 (R119). -/
def decodeReq (selector : BitVec 4) (operand : Operand) : Except DecodeError Instr :=
  if selector = 0#4 then
    match operand with | .request c d => .ok (.execute c d) | _ => .error .wrongOperand
  else if selector = 1#4 then
    match operand with | .request c d => .ok (.issue c d) | _ => .error .wrongOperand
  else if selector = 2#4 then
    match operand with | .kind k => .ok (.readResponse k) | _ => .error .wrongOperand
  else if selector = 3#4 then
    match operand with | .descriptor d => .ok (.transfer d) | _ => .error .wrongOperand
  else if selector = 4#4 then
    match operand with | .none => .ok .waitCompletion | _ => .error .wrongOperand
  else if selector = 5#4 then
    match operand with | .binding b => .ok (.probe b) | _ => .error .wrongOperand
  else if selector = 6#4 then
    match operand with | .target hz => .ok (.setClock hz) | _ => .error .wrongOperand
  else if selector = 7#4 then
    match operand with | .none => .ok .cardPresent | _ => .error .wrongOperand
  else if selector = 8#4 then
    match operand with | .none => .ok .writeProtected | _ => .error .wrongOperand
  else .error .noSelector

/-- Format EV: numbers 0 to 10 (R126). -/
def decodeEv (number : BitVec 4) (operand : Operand) : Except DecodeError Instr :=
  if number = 0#4 then
    match operand with | .none => .ok .evCmdSent | _ => .error .wrongOperand
  else if number = 1#4 then
    match operand with | .word w => .ok (.evRspShort w) | _ => .error .wrongOperand
  else if number = 2#4 then
    match operand with | .words a b c d => .ok (.evRspLong a b c d) | _ => .error .wrongOperand
  else if number = 3#4 then
    match operand with | .none => .ok .evRspTimeout | _ => .error .wrongOperand
  else if number = 4#4 then
    match operand with | .bytes bs => .ok (.evRxBytes bs) | _ => .error .wrongOperand
  else if number = 5#4 then
    match operand with | .count k => .ok (.evTxBytes k) | _ => .error .wrongOperand
  else if number = 6#4 then
    match operand with | .none => .ok .evDataFinish | _ => .error .wrongOperand
  else if number = 7#4 then
    match operand with | .stops b => .ok (.evCrcFail b) | _ => .error .wrongOperand
  else if number = 8#4 then
    match operand with | .stops b => .ok (.evRxcrcFail b) | _ => .error .wrongOperand
  else if number = 9#4 then
    match operand with | .stops b => .ok (.evDataTimeout b) | _ => .error .wrongOperand
  else if number = 10#4 then
    match operand with | .stops b => .ok (.evFifoFail b) | _ => .error .wrongOperand
  else .error .noEvent

/-- Decoding, total on every encoded form, rejecting by name. -/
def decode (c : Config) : Encoded → Except DecodeError Instr
  | .access dir width offset w => decodeAccess c.offsets dir width offset w
  | .cn w => .ok (decodeCn c.layout.con w)
  | .cc w => decodeCc c.layout.ccon w
  | .dc w => decodeDc c.layout.dcon w
  | .req selector operand => decodeReq selector operand
  | .ev number operand => decodeEv number operand

/-! ## Encoding -/

/-- The word of CON.CFG (R111). -/
def conCfgWord (l : Config.ConLayout) (clktype fiforeset : Bool) : Word :=
  wordOf [(flag l.clktype, ofFlag clktype), (flag l.fiforeset, ofFlag fiforeset)]

/-- A 32-bit access at a register (R88, R110). -/
def encodeAccess (c : Config) (dir : Dir) (r : Reg) (w : Word) : Encoded := .access dir 32 (r.offset c.offsets) w

/-- The encoded form of an operation. -/
def encode (c : Config) : Instr → Encoded
  | .rdCon => encodeAccess c .read .con 0#32
  | .wrCon v => encodeAccess c .write .con v
  | .rdPre => encodeAccess c .read .pre 0#32
  | .wrPre v => encodeAccess c .write .pre v
  | .rdCarg => encodeAccess c .read .carg 0#32
  | .wrCarg v => encodeAccess c .write .carg v
  | .rdCcon => encodeAccess c .read .ccon 0#32
  | .wrCcon v => encodeAccess c .write .ccon v
  | .rdCsta => encodeAccess c .read .csta 0#32
  | .wrCsta v => encodeAccess c .write .csta v
  | .rdRsp0 => encodeAccess c .read .rsp0 0#32
  | .wrRsp0 v => encodeAccess c .write .rsp0 v
  | .rdRsp1 => encodeAccess c .read .rsp1 0#32
  | .wrRsp1 v => encodeAccess c .write .rsp1 v
  | .rdRsp2 => encodeAccess c .read .rsp2 0#32
  | .wrRsp2 v => encodeAccess c .write .rsp2 v
  | .rdRsp3 => encodeAccess c .read .rsp3 0#32
  | .wrRsp3 v => encodeAccess c .write .rsp3 v
  | .rdDtimer => encodeAccess c .read .dtimer 0#32
  | .wrDtimer v => encodeAccess c .write .dtimer v
  | .rdBsize => encodeAccess c .read .bsize 0#32
  | .wrBsize v => encodeAccess c .write .bsize v
  | .rdDcon => encodeAccess c .read .dcon 0#32
  | .wrDcon v => encodeAccess c .write .dcon v
  | .rdDcnt => encodeAccess c .read .dcnt 0#32
  | .wrDcnt v => encodeAccess c .write .dcnt v
  | .rdDsta => encodeAccess c .read .dsta 0#32
  | .wrDsta v => encodeAccess c .write .dsta v
  | .rdFsta => encodeAccess c .read .fsta 0#32
  | .wrFsta v => encodeAccess c .write .fsta v
  | .rdImsk => encodeAccess c .read .imsk 0#32
  | .wrImsk v => encodeAccess c .write .imsk v
  | .rdDat => encodeAccess c .read .dat 0#32
  | .wrDat v => encodeAccess c .write .dat v
  | .conReset => .cn (bitWord c.layout.con.sdreset true)
  | .conCfg clktype fiforeset => .cn (conCfgWord c.layout.con clktype fiforeset)
  | .cmdNorsp index => .cc (cconFormWord c.layout.ccon index true true false false)
  | .cmdShort index => .cc (cconFormWord c.layout.ccon index true true true false)
  | .cmdLong index => .cc (cconFormWord c.layout.ccon index true true true true)
  | .cconStore index senderhost waitrsp longrsp => .cc (cconFormWord c.layout.ccon index senderhost false waitrsp longrsp)
  | .dataRx blknum widebus => .dc (dataFormWord c.layout.dcon .rx blknum widebus)
  | .dataTx blknum widebus => .dc (dataFormWord c.layout.dcon .tx blknum widebus)
  | .dataOff => .dc 0#32
  | .execute cmd data => .req 0#4 (.request cmd data)
  | .issue cmd data => .req 1#4 (.request cmd data)
  | .readResponse kind => .req 2#4 (.kind kind)
  | .transfer data => .req 3#4 (.descriptor data)
  | .waitCompletion => .req 4#4 .none
  | .probe binding => .req 5#4 (.binding binding)
  | .setClock target => .req 6#4 (.target target)
  | .cardPresent => .req 7#4 .none
  | .writeProtected => .req 8#4 .none
  | .evCmdSent => .ev 0#4 .none
  | .evRspShort w => .ev 1#4 (.word w)
  | .evRspLong w0 w1 w2 w3 => .ev 2#4 (.words w0 w1 w2 w3)
  | .evRspTimeout => .ev 3#4 .none
  | .evRxBytes bs => .ev 4#4 (.bytes bs)
  | .evTxBytes k => .ev 5#4 (.count k)
  | .evDataFinish => .ev 6#4 .none
  | .evCrcFail stops => .ev 7#4 (.stops stops)
  | .evRxcrcFail stops => .ev 8#4 (.stops stops)
  | .evDataTimeout stops => .ev 9#4 (.stops stops)
  | .evFifoFail stops => .ev 10#4 (.stops stops)

/-! ## The opcode table's index words (R110, R119, R126)

The table numbers its rows per format, "only an index", so one number can stand for rows of several formats
(key 0x00 is RD.CON, selector 0 is EXECUTE, number 0 is EV.CMD_SENT). `tableEncoded` fixes, for a word of
a given size, the format it is read in. The table is written for the default LAYOUT and REG_OFFSETS, so its words are read
under `Config.reference`. Log entries 8 and 9. -/

/-- The access an RA key stands for, with its data word. -/
def raOfKey (key w : Nat) : Encoded :=
  .access (if key < 0x80 then .read else .write) 32 (key % 0x80) (BitVec.ofNat 32 w)

/-- The least operand that is well formed for a selector, where the table's word gives the operand no bits. -/
def leastRequest (selector : Nat) : Operand :=
  if selector ≤ 1 then .request ⟨0#6, 0#32, .none⟩ none
  else if selector = 2 then .kind .none
  else if selector = 3 then .descriptor ⟨.rx, 4, 1, 1, 4⟩
  else if selector = 5 then .binding ⟨some 0, 0, 0, 0⟩
  else if selector = 6 then .target 0
  else .none

/-- The same for an event number. -/
def leastEvent (number : Nat) : Operand :=
  if number = 1 then .word 0#32
  else if number = 2 then .words 0#32 0#32 0#32 0#32
  else if number = 4 then .bytes [0#8]
  else if number = 5 then .count 1
  else if 7 ≤ number then .stops false
  else .none

/-- A byte as an index of the table: an RA key if it is one, else a selector, else an event number. -/
def byteEncoded (w : Nat) : Encoded :=
  if (Reg.ofOffset Config.reference.offsets (w % 0x80)).isSome then raOfKey w 0
  else if w ≤ 8 then .req (BitVec.ofNat 4 w) (leastRequest w)
  else .ev (BitVec.ofNat 4 w) (leastEvent w)

/-- A two-byte word of the table: the key of RD.CSTA (whose row names bits of the word read), a word of
format CN, or a word of format CC. A word with CMDSTART's bit set and one of the three arming patterns is
read in format CC, any other word that holds named bits of CON only in format CN. -/
def halfEncoded (w : Nat) : Encoded :=
  if w % 0x100 = 0x10 ∧ w / 0x100 % 2 = 0 then raOfKey 0x10 0
  else if BitVec.ofNat 32 w &&& ~~~maskOf Config.reference.layout.con.fields = 0#32 then .cn (BitVec.ofNat 32 w)
  else .cc (BitVec.ofNat 32 w)

/-- The encoded form of an instruction whose bits are `w` (bit 0 the least significant of the first word),
`nbits` bits of which the table names; the bits above are 0. A word wider than 32 bits is a key in its low
byte with its data word above. -/
def tableEncoded (nbits w : Nat) : Encoded :=
  if nbits ≤ 8 then byteEncoded w
  else if nbits ≤ 16 then halfEncoded w
  else if nbits ≤ 32 then .dc (BitVec.ofNat 32 w)
  else raOfKey (w % 0x100) (w / 0x100)

/-- The instruction the decoder reads from a word of the table. -/
def decodeTableWord (nbits w : Nat) : Option Instr :=
  match decode Config.reference (tableEncoded nbits w) with
  | .ok i => some i
  | .error _ => none

end Sys2Proof
end

