-- ==== Sys2Proof/Machine/State.lean ====
section
/-! DEFINITION. The state of one block instance with its sequencer, its caller's buffer and its collaborators
(10_state.md), as plain data; the power-on states and the state after reset; faults and refusals. -/

namespace Sys2Proof.Machine

/-! ## The register block (10_state.md section 1) -/

/-- The stored fields of CCON (R25). CMDSTART is an action and is not stored. -/
structure CconFields where
  index : BitVec 6
  senderhost : Bool
  waitrsp : Bool
  longrsp : Bool
  deriving DecidableEq, Repr

/-- The stored fields of DCON (R30). DATSTART is an action and is not stored. -/
structure DconFields where
  blknum : BitVec 11
  datmode : Word
  widebus : Bool
  blockmode : Bool
  racmd : Bool
  tarsp : Bool
  datasize : Word
  deriving DecidableEq, Repr

/-- All named fields of DCON zero (R236, R381). -/
def DconFields.zero : DconFields := ⟨0#11, 0#32, false, false, false, false, 0#32⟩

/-- The latched flags of CSTA (R26). CMDON is live and is computed from the command engine. -/
structure CstaFlags where
  rspfin : Bool
  cmdtimeout : Bool
  cmdsent : Bool
  deriving DecidableEq, Repr

/-- The latched flags of DSTA (R32). -/
structure DstaFlags where
  xferfinish : Bool
  datatimeout : Bool
  rxcrcfail : Bool
  crcfail : Bool
  fifofail : Bool
  deriving DecidableEq, Repr

/-- The stored fields of the registers (R22 to R34), each value zero-extended: a value of PRE.DIV, DTIMER.VAL or BSIZE.VAL
fits the width LAYOUT gives the field. DCNT (R31), FSTA (R33) and DAT (R35) store nothing. A
response register holds a word or no value (R27). -/
structure Regs where
  /-- CON.CLKTYPE -/
  clktype : Bool
  /-- PRE.DIV -/
  div : Word
  /-- CARG -/
  carg : Word
  /-- CCON -/
  ccon : CconFields
  /-- CSTA -/
  csta : CstaFlags
  /-- RSP0 -/
  rsp0 : Option Word
  /-- RSP1 -/
  rsp1 : Option Word
  /-- RSP2 -/
  rsp2 : Option Word
  /-- RSP3 -/
  rsp3 : Option Word
  /-- DTIMER.VAL -/
  dtimer : Word
  /-- BSIZE.VAL -/
  bsize : Word
  /-- DCON -/
  dcon : DconFields
  /-- DSTA -/
  dsta : DstaFlags
  /-- IMSK -/
  imsk : Word
  deriving DecidableEq, Repr

/-! ## The engines and the card record (10_state.md section 2) -/

/-- The command engine (R41). -/
inductive CmdEngine where
  | idle
  | sending (index : BitVec 6) (arg : Word) (wait long : Bool)
  | waitRsp (long : Bool)
  deriving DecidableEq, Repr

/-- The data engine (R42). -/
inductive DataEngine where
  | idle
  | armed (dir : Direction) (total : Nat)
  | active (dir : Direction) (left : Nat)
  | done
  | err
  deriving DecidableEq, Repr

/-- What crossed the card interface (R43). -/
inductive CardItem where
  | cmdFrame (index : BitVec 6) (arg : Word)
  | rspFrame (words : List Word)
  | rxBytes (bs : List Byte)
  | txBytes (bs : List Byte)
  deriving DecidableEq, Repr

/-! ## The sequencer (10_state.md section 4) -/

/-- A set of error flags of DSTA, the payload of DataError (R340). -/
structure ErrorSet where
  fifofail : Bool
  crcfail : Bool
  rxcrcfail : Bool
  datatimeout : Bool
  deriving DecidableEq, Repr

/-- The failures of EXECUTE (R340), which are also the reasons of the phase Failed (R62). -/
inductive Failure where
  | configurationError
  | commandTimeout
  | dataError (kind : ErrorSet)
  | dataTimeout
  deriving DecidableEq, Repr

/-- The sequencer phase `pc` (R62). -/
inductive Phase where
  | idle
  | commandPhase
  | dataPhase
  | completionPhase
  | failed (reason : Failure)
  deriving DecidableEq, Repr

/-- A response (R63). -/
inductive Response where
  | none
  | short (w0 : Word)
  | long (w0 w1 w2 w3 : Word)
  deriving DecidableEq, Repr

/-- TransferOutcome (R340). -/
inductive TransferOutcome where
  | success (resp : Response)
  | failure (reason : Failure)
  deriving DecidableEq, Repr

/-- The result record of EXECUTE (R283). -/
structure ExecResult where
  outcome : TransferOutcome
  resp : Response
  rem : Nat
  deriving DecidableEq, Repr

/-- What ISSUE returns (R141, R290). -/
inductive IssueResult where
  | sent | responded | timedOut
  deriving DecidableEq, Repr

/-- What TRANSFER returns (R141, R300). `errorKind` is the masked status word. -/
structure TransferResult where
  ok : Bool
  bytesRemaining : Nat
  errorKind : Word
  deriving DecidableEq, Repr

/-- What WAIT_COMPLETION returns (R141, R308). -/
inductive WaitResult where
  | finished | timedOut
  deriving DecidableEq, Repr

/-- ProbeOutcome (R340, R346). -/
inductive ProbeOutcome where
  | ok | missingBase | clockUnavailable
  deriving DecidableEq, Repr

/-- ClockOutcome (R340, R345). -/
inductive ClockOutcome where
  | ok | configurationError
  deriving DecidableEq, Repr

/-- What a session operation hands back to its caller (R347). -/
inductive SessionResult where
  | execute (r : ExecResult)
  | probe (r : ProbeOutcome)
  | setClock (r : ClockOutcome)
  | cardPresent (level : Bool)
  | writeProtected (level : Bool)
  deriving DecidableEq, Repr

/-- The handle the clock collaborator returned (R60): the name of the clock it enabled. -/
structure ClockHandle where
  name : Nat
  deriving DecidableEq, Repr

/-- ControllerState (R60). `divider` has no value before the first SET_CLOCK. -/
structure ControllerState where
  clock : ClockHandle
  divider : Option Nat
  cdRef : Nat
  wpRef : Nat
  base : Nat
  deriving DecidableEq, Repr

/-- Where EXECUTE stands in the programs of R281, R290, R295, R300 and R308: the access it performs next, the
sub-step it calls next, or its silent end. Log entry 14. -/
inductive ExecPos where
  | callIssue
  | clearCsta | clearDsta | clearFsta
  | writeBsize | writeDcon
  | writeCarg | writeCcon
  | pollCsta | clearConsumed
  | callReadResponse
  | readRsp0 | readRsp1 | readRsp2 | readRsp3
  | callTransfer
  | readDsta | readFsta | moveWord
  | callWait
  | pollDsta | clearDone | dataOff
  | finish
  | clearDcon
  | returnFailure
  deriving DecidableEq, Repr

/-- One running EXECUTE: its operands, where it stands, and the working registers of the sequencer (R61, and
`r`, `t`, `c`, `i` of R281 and R300), live only inside the operation. -/
structure ExecRun where
  cmd : Command
  data : Option Descriptor
  pos : ExecPos
  n : Nat
  csta : Word
  dsta : Word
  fsta : Word
  off : Nat
  rem : Nat
  i : Nat
  w : Word
  resp : Response
  r : Option IssueResult
  t : Option TransferResult
  c : Option WaitResult
  deriving DecidableEq, Repr

/-- Where PROBE stands in the program of R310. -/
inductive ProbePos where
  | softwareReset | settle | writeDtimer | writeBsize | writeImsk | configure
  deriving DecidableEq, Repr

/-- Where SET_CLOCK stands in the program of R320. -/
inductive ClockPos where
  | writePre | settle
  deriving DecidableEq, Repr

/-- The session operation that runs, if any (R280): CARD_PRESENT and WRITE_PROTECTED end in the step they
start. -/
inductive Session where
  | idle
  | execute (x : ExecRun)
  | probe (binding : Binding) (handle : ClockHandle) (base : Nat) (pos : ProbePos)
  | setClock (divider : Nat) (pos : ClockPos)
  deriving DecidableEq, Repr

/-! ## Collaborators (R64, R366) -/

/-- The clock service for the block's clock: whether it would answer `ok` to an enable request, whether the
clock is enabled, and its rate in Hz. Log entry 19. -/
structure ClockService where
  available : Bool
  enabled : Bool
  rate : Nat
  deriving DecidableEq, Repr

/-- The GPIO service: the level of the card-detect line and of the write-protect line. Log entry 20. -/
structure GpioService where
  cardDetect : Bool
  writeProtect : Bool
  deriving DecidableEq, Repr

/-- The caller buffer: offset and byte, offsets strictly rising, no entry equal to `Config.unlistedByte`. -/
abbrev Memory := List Host.Cell

/-- What happens next, in the order of the run (R100): the model's input. Log entry 5. -/
inductive Slot where
  /-- The sequencer takes its next step. -/
  | turn
  /-- A host operation or a device event. -/
  | op (e : Encoded)
  /-- The clock service changes (R366: the rate "may differ between calls"). -/
  | clock (c : ClockService)
  /-- The lines change (R330). -/
  | gpio (g : GpioService)
  /-- The caller writes a byte of its buffer (R407). Log entry 24. -/
  | callerWrite (offset : Nat) (b : Byte)
  deriving DecidableEq, Repr

/-! ## State -/

/-- The whole state. The first field and the last four are the model's own (log entries 22, 3, 4 and 5). -/
structure State where
  /-- The configuration of this instance (R9, R10, R17); no step changes it. -/
  config : Config
  /-- The register block (R20 to R34). -/
  regs : Regs
  /-- The FIFO, oldest byte first (R40). -/
  fifo : List Byte
  /-- The command engine `ce` (R41). -/
  ce : CmdEngine
  /-- The data engine `de` (R42). -/
  de : DataEngine
  /-- The card stream record (R43). -/
  card : List CardItem
  /-- The sequencer phase (R62). -/
  pc : Phase
  /-- ControllerState, if it exists (R60). -/
  ctrl : Option ControllerState
  /-- The running session operation with the sequencer's working registers (R61). -/
  session : Session
  /-- The caller buffer (R80). -/
  buffer : Memory
  /-- The clock service (R64). -/
  clock : ClockService
  /-- The GPIO service (R64). -/
  gpio : GpioService
  /-- The word the last host read returned. -/
  hostWord : Word
  /-- What the last session operation that ended handed back; none while one runs. -/
  result : Option SessionResult
  /-- How many free values have been drawn. -/
  draws : Nat
  /-- What happens next. -/
  agenda : List Slot
  deriving DecidableEq, Repr

/-! ## Faults and refusals -/

/-- The block raises no fault (R348). The one reason here is an access that the spec says cannot exist. -/
inductive Fault where
  /-- TRANSFER would touch a byte outside the caller buffer (R82). Raised by the sequencer; safe. No state
  that meets the model's invariant raises it. -/
  | outsideBuffer
  deriving DecidableEq, Repr

/-- Why a use has no meaning (R15 `refuse`). Each is safe: the run has no continuation. -/
inductive Refusal where
  /-- An instruction without a meaning; raised by `exec` alone. -/
  | notModelled (mnemonic : String)
  /-- An encoded form that is no operation (R88, R89, R119, R126, R130, R131); raised by `step`. -/
  | undecodable (e : DecodeError)
  /-- An event without its arguments (R250, R251); raised by `step`. -/
  | illFormed
  /-- A host operation while a session operation runs (R8, R361); raised by `step`. -/
  | notOwner
  /-- A session operation started while another runs (R8, R280); raised by session operations. -/
  | sequencerBusy
  /-- A session operation other than PROBE with no ControllerState (R346, R380). -/
  | notProbed
  /-- A sub-step of EXECUTE started by anyone but EXECUTE (R280). -/
  | subStepNotCallable
  /-- Operands of EXECUTE outside the contract (R133). -/
  | contractViolation
  /-- SET_CLOCK with a divider above PRE_MAX (R134). -/
  | dividerTooLarge
  /-- A command armed while one is in the engine (R205). -/
  | commandInFlight
  /-- A reserved command-control word (R130). -/
  | reservedCommandWord
  /-- A reserved data-control word (R131). -/
  | reservedDataWord
  /-- A data phase armed while the data engine is not idle, or with no block or no byte (R234). -/
  | dataArmRefused
  /-- BSIZE written while the data engine is armed or active (R171). -/
  | blockSizeInUse
  /-- PRE written while a command or a data phase runs (R155). -/
  | prescalerInUse
  /-- FIFO reset while a data phase runs (R152, R382). -/
  | fifoInUse
  /-- IMSK written non-zero (R34, R182). -/
  | interruptMask
  /-- DAT read with fewer than 4 bytes queued (R240). -/
  | fifoUnderflow
  /-- DAT written with less than 4 bytes of room (R241). -/
  | fifoOverflow
  /-- A device event whose guard does not hold (R14): no such step exists. -/
  | eventNotEnabled
  /-- The caller's buffer written while EXECUTE has borrowed it (R407); raised by `step`. -/
  | bufferBorrowed
  deriving DecidableEq, Repr

/-! ## Power-on and reset -/

/-- The stored fields after software reset (R70, R381): the configured values, flags and DCON zero, and the response
registers without value. -/
def Regs.afterReset (r : Config.ResetValues) : Regs where
  clktype := r.clktype
  div := r.div
  carg := r.carg
  ccon := ⟨r.index, r.senderhost, r.waitrsp, r.longrsp⟩
  csta := ⟨false, false, false⟩
  rsp0 := none
  rsp1 := none
  rsp2 := none
  rsp3 := none
  dtimer := r.dtimer
  bsize := r.bsize
  dcon := DconFields.zero
  dsta := ⟨false, false, false, false, false⟩
  imsk := r.imsk

/-- Each value cut to the width of its field: what registers of these widths can hold. -/
def Regs.clip (l : Config.Layout) (r : Regs) : Regs :=
  { r with
    div := l.pre.clip r.div
    dtimer := l.dtimer.clip r.dtimer
    bsize := l.bsize.clip r.bsize
    dcon := { r.dcon with
      datmode := l.dcon.datmodeValue.clip r.dcon.datmode
      datasize := l.dcon.datasize.clip r.dcon.datasize } }

/-- What is drawn at power-on (R380): every register field, the FIFO and both engines, and, outside the block, what
the collaborators hold. -/
structure PowerOn where
  regs : Regs
  fifo : List Byte
  ce : CmdEngine
  de : DataEngine
  clock : ClockService
  gpio : GpioService
  deriving DecidableEq, Repr

/-- The power-on state of a configuration and a draw (R70 left column, R380): the response registers hold no value, the
card record is empty, the phase is Idle and no ControllerState exists. -/
def State.powerOn (c : Config) (d : PowerOn) : State where
  config := c
  regs := { d.regs.clip c.layout with rsp0 := none, rsp1 := none, rsp2 := none, rsp3 := none }
  fifo := d.fifo
  ce := d.ce
  de := d.de
  card := []
  pc := .idle
  ctrl := none
  session := .idle
  buffer := []
  clock := d.clock
  gpio := d.gpio
  hostWord := 0#32
  result := none
  draws := 0
  agenda := []

/-- The draw the model names for `State.reset`: zero and idle. DESIGN CHOICE, log entries 1 and 2. -/
def PowerOn.named : PowerOn where
  regs := Regs.afterReset {}
  fifo := []
  ce := .idle
  de := .idle
  clock := ⟨true, false, 0⟩
  gpio := ⟨false, false⟩

/-- The machine right after reset: the power-on state of the reference configuration with the values log entries 1 and 2
name. -/
def State.reset : State := State.powerOn Config.reference PowerOn.named

end Sys2Proof.Machine
end

