-- ==== Sys2Proof/Machine/Ops.lean ====
section
/-! DEFINITION. The named operations over the state: field updates, the caller buffer, the host's bus reads, the
FIFO, resets, arming and starting the engines, error events, and failure entry with its return. -/

namespace Sys2Proof.Machine

/-- How one operation ends. -/
abbrev Result := Host.Outcome State Fault Refusal

/-! ## Field updates -/

/-- Replace the register block. -/
def State.setRegs (s : State) (v : Regs) : State := { s with regs := v }
/-- Replace the FIFO. -/
def State.setFifo (s : State) (v : List Byte) : State := { s with fifo := v }
/-- Replace the command engine. -/
def State.setCe (s : State) (v : CmdEngine) : State := { s with ce := v }
/-- Replace the data engine. -/
def State.setDe (s : State) (v : DataEngine) : State := { s with de := v }
/-- Replace the card record. -/
def State.setCard (s : State) (v : List CardItem) : State := { s with card := v }
/-- Replace the phase. -/
def State.setPc (s : State) (v : Phase) : State := { s with pc := v }
/-- Replace ControllerState. -/
def State.setCtrl (s : State) (v : Option ControllerState) : State := { s with ctrl := v }
/-- Replace the running session operation. -/
def State.setSession (s : State) (v : Session) : State := { s with session := v }
/-- Replace the caller buffer. -/
def State.setBuffer (s : State) (v : Memory) : State := { s with buffer := v }
/-- Replace the clock service. -/
def State.setClock (s : State) (v : ClockService) : State := { s with clock := v }
/-- Replace the GPIO service. -/
def State.setGpio (s : State) (v : GpioService) : State := { s with gpio := v }
/-- Replace the word a host read returned. -/
def State.setHostWord (s : State) (v : Word) : State := { s with hostWord := v }
/-- Replace what an operation handed back. -/
def State.setResult (s : State) (v : Option SessionResult) : State := { s with result := v }
/-- Replace the count of free values. -/
def State.setDraws (s : State) (v : Nat) : State := { s with draws := v }
/-- Replace what happens next. -/
def State.setAgenda (s : State) (v : List Slot) : State := { s with agenda := v }

/-! ## The caller buffer (R80, R82, R86)

A list of offsets and bytes, offsets strictly rising, no entry equal to what an unlisted offset reads as. -/

/-- The byte at an offset of the buffer; an unlisted offset reads as `Config.unlistedByte` (log entry 6). -/
def readByte : Memory → Nat → Byte
  | [], _ => Config.unlistedByte
  | (k, b) :: m, a => if k = a then b else readByte m a

/-- Write one byte, keeping the canonical form: writing the value of an unlisted offset removes the entry. -/
def writeByte : Memory → Nat → Byte → Memory
  | [], a, v => if v = Config.unlistedByte then [] else [(a, v)]
  | (k, b) :: m, a, v =>
    if a < k then (if v = Config.unlistedByte then (k, b) :: m else (a, v) :: (k, b) :: m)
    else if a = k then (if v = Config.unlistedByte then m else (a, v) :: m)
    else (k, b) :: writeByte m a v

/-- Every offset is at least `lo`, offsets rise strictly, and no entry equals `Config.unlistedByte`. -/
def Memory.wfFrom : Nat → Memory → Bool
  | _, [] => true
  | lo, (k, b) :: m => decide (lo ≤ k) && decide (b ≠ Config.unlistedByte) && Memory.wfFrom (k + 1) m

/-- The canonical form of the buffer. -/
def Memory.wf (m : Memory) : Bool := Memory.wfFrom 0 m

/-- The word whose bytes are `b0` (bits 7 to 0) to `b3` (bits 31 to 24) (R86, R87). -/
def wordOfBytes (b0 b1 b2 b3 : Byte) : Word :=
  b0.setWidth 32 ||| b1.setWidth 32 <<< 8 ||| b2.setWidth 32 <<< 16 ||| b3.setWidth 32 <<< 24

/-- Byte `k` of a word, bits [8k+7:8k] (R117). -/
def byteOf (w : Word) (k : Nat) : Byte := w.extractLsb' (8 * k) 8

/-- `BufRead32(buf, off)` (R13, R86): little-endian. -/
def bufRead32 (m : Memory) (off : Nat) : Word :=
  wordOfBytes (readByte m off) (readByte m (off + 1)) (readByte m (off + 2)) (readByte m (off + 3))

/-- `BufWrite32(buf, off, w)` (R13, R86): little-endian. -/
def bufWrite32 (m : Memory) (off : Nat) (w : Word) : Memory :=
  writeByte (writeByte (writeByte (writeByte m off (byteOf w 0)) (off + 1) (byteOf w 1)) (off + 2) (byteOf w 2))
    (off + 3) (byteOf w 3)

/-! ## Host reads (R91, R150) -/

/-- The word a read returns: the bits of `mask` from `named`, every other bit from the drawn word (R21). -/
def mergeDraw (mask named drawn : Word) : Word := (named &&& mask) ||| (drawn &&& ~~~mask)

/-- A host read of a register with unnamed bits: one free value is drawn (R21). Log entry 4. -/
def readWithDraw (mask named : Word) (s : State) : Result :=
  .next ((s.setHostWord (mergeDraw mask named (Config.freeWord s.draws))).setDraws (s.draws + 1))

/-- A host read of a register all of whose bits are named: nothing is drawn. -/
def readWhole (w : Word) (s : State) : Result := .next (s.setHostWord w)

/-- A host read of a response register: the word it holds, or a free word if it holds none (R27, R166). -/
def readResponseRegister (r : Option Word) (s : State) : Result :=
  match r with
  | some w => readWhole w s
  | none => readWithDraw 0#32 0#32 s

/-! ## Host writes that store -/

/-- Replace the register block by an update of it. -/
def State.updateRegs (s : State) (r : Regs) : Result := .next (s.setRegs r)

/-- A host write that no rule gives an effect: the access happens and nothing changes (R132). -/
def ignoredWrite (s : State) : Result := .next s

/-! ## The FIFO (R240, R241) -/

/-- Remove the four oldest bytes and return them as a word, oldest in bits 7 to 0. -/
def fifoPop (s : State) : Result :=
  match s.fifo with
  | b0 :: b1 :: b2 :: b3 :: rest => .next ((s.setFifo rest).setHostWord (wordOfBytes b0 b1 b2 b3))
  | _ => .refused .fifoUnderflow

/-- Append the four bytes of a word, bits 7 to 0 first. -/
def fifoPush (v : Word) (s : State) : Result :=
  if s.fifo.length + 4 ≤ s.config.fifoDepth then
    .next (s.setFifo (s.fifo ++ [byteOf v 0, byteOf v 1, byteOf v 2, byteOf v 3]))
  else .refused .fifoOverflow

/-! ## Resets -/

/-- Software reset (R381): one step, legal in every state; the card record, the phase and ControllerState stay. -/
def softwareReset (s : State) : State :=
  (((s.setRegs (Regs.afterReset s.config.reset)).setFifo []).setCe .idle).setDe .idle

/-- A CON word with SDRESET = 0 (R152): CLKTYPE is stored, FIFORESET empties the FIFO (R382) and is refused while
a data phase runs. -/
def configure (clktype fiforeset : Bool) (s : State) : Result :=
  let t := s.setRegs { s.regs with clktype := clktype }
  if fiforeset then
    match s.de with
    | .active _ _ => .refused .fifoInUse
    | _ => .next (t.setFifo [])
  else .next t

/-! ## Arming the engines -/

/-- Store the named fields of CCON (R159). -/
def storeCcon (f : CconFields) (s : State) : State := s.setRegs { s.regs with ccon := f }

/-- Arm the command engine (R200 to R202): the fields are stored, and the index of the word and CARG are sampled in
this step (R203). Refused while a command is in the engine (R205). -/
def armCommand (index : BitVec 6) (wait long : Bool) (s : State) : Result :=
  match s.ce with
  | .idle => .next ((storeCcon ⟨index, true, wait, long⟩ s).setCe (.sending index s.regs.carg wait long))
  | _ => .refused .commandInFlight

/-- The stored fields of an arming data-control word (R114, R121). -/
def armingFields (l : Config.DconLayout) (dir : Direction) (blknum : BitVec 11) (widebus : Bool) : DconFields :=
  match dir with
  | .rx => ⟨blknum, l.rxStart, widebus, true, true, false, l.wordSize⟩
  | .tx => ⟨blknum, l.txStart, widebus, true, false, true, l.wordSize⟩

/-- Arm the data engine (R232, R233): the fields are stored and `total` is sampled in this step (R231). Refused
as R234 says. -/
def armData (dir : Direction) (blknum : BitVec 11) (widebus : Bool) (s : State) : Result :=
  match s.de with
  | .idle =>
    if blknum = 0#11 ∨ s.regs.bsize = 0#32 then .refused .dataArmRefused
    else .next ((s.setRegs { s.regs with dcon := armingFields s.config.layout.dcon dir blknum widebus }).setDe
      (.armed dir (s.regs.bsize.toNat * blknum.toNat)))
  | _ => .refused .dataArmRefused

/-- The zero write to DCON (R236): legal in every state of the data engine; flags and FIFO stay. -/
def dataControlOff (s : State) : State :=
  (s.setRegs { s.regs with dcon := DconFields.zero }).setDe .idle

/-! ## Starting and stopping the data phase -/

/-- The automatic start (R235): an engine armed in this direction becomes active with the whole length left. -/
def startPhase (dir : Direction) (de : DataEngine) : DataEngine :=
  match de with
  | .armed d total => if d = dir then .active dir total else de
  | _ => de

/-- Append to the card record (R43). -/
def State.appendCard (s : State) (item : CardItem) : State := s.setCard (s.card ++ [item])

/-- An error event of a data phase (R260 to R264): the flag is set and the engine keeps its state or stops, as the
environment chooses. Log entry 17. -/
def dataErrorEvent (flags : DstaFlags) (stops : Bool) (s : State) : Result :=
  match s.de with
  | .active dir left =>
    .next ((s.setRegs { s.regs with dsta := flags }).setDe (if stops then .err else .active dir left))
  | _ => .refused .eventNotEnabled

/-- A response arrives (R211, R212): record, response registers, RSPFIN, engine idle, and the start of an armed
write phase (R235). -/
def responseArrives (words : List Word) (rsp0 rsp1 rsp2 rsp3 : Option Word) (s : State) : State :=
  (((s.appendCard (.rspFrame words)).setRegs
    { s.regs with
      rsp0 := rsp0, rsp1 := rsp1, rsp2 := rsp2, rsp3 := rsp3
      csta := { s.regs.csta with rspfin := true } }).setCe .idle).setDe (startPhase .tx s.de)

/-! ## The sequencer: start, failure entry and return (R335, R355, R358) -/

/-- The session runs, with no result yet. Log entry 29. -/
def State.startSession (s : State) (op : Session) : State := (s.setSession op).setResult none

/-- A session operation ends: its working registers are gone (R61) and its result is handed back. -/
def State.endSession (s : State) (r : SessionResult) : State := (s.setSession .idle).setResult (some r)

/-- EXECUTE goes on at another position. -/
def State.continueAt (s : State) (x : ExecRun) (pos : ExecPos) : State := s.setSession (.execute { x with pos := pos })

/-- The transition to Failed(reason) (R335, R355): nothing is saved in the block. The operation stands at `pos`
next: the return, or the one write of CLEAR_DCON_ON_FAILURE. -/
def enterFailure (reason : Failure) (pos : ExecPos) (x : ExecRun) (s : State) : State :=
  (s.continueAt x pos).setPc (.failed reason)

/-- `fail(reason)` of R281, with CLEAR_DCON_ON_FAILURE (R11). -/
def failExecute (reason : Failure) (x : ExecRun) (s : State) : State :=
  enterFailure reason (if s.config.clearDconOnFailure && x.data.isSome then .clearDcon else .returnFailure) x s

/-- The return from a failure (R358): Failed(reason) goes to Idle and the caller gets the reason with the record
of R283; nothing is restored. A phase that is not Failed cannot stand here; the operation then waits. -/
def returnFailure (x : ExecRun) (s : State) : State :=
  match s.pc with
  | .failed reason => (s.endSession (.execute ⟨.failure reason, x.resp, x.rem⟩)).setPc .idle
  | _ => s

/-- The successful end of EXECUTE (R281). -/
def returnSuccess (x : ExecRun) (s : State) : State :=
  (s.endSession (.execute ⟨.success x.resp, x.resp, x.rem⟩)).setPc .idle

end Sys2Proof.Machine
end

