-- ==== Sys2Proof/Machine/Flags.lean ====
section
/-! DEFINITION. The status flags: live flags computed from the engines (R26, R33, R242), write-one-to-clear of the
latched ones (R161, R178), and the sequencer's tests and masks of status words (R124, R340). -/

namespace Sys2Proof.Machine

/-! ## Live flags -/

/-- CSTA.CMDON reads 1 iff the command engine is not idle (R41). -/
def cmdon (ce : CmdEngine) : Bool :=
  match ce with
  | .idle => false
  | _ => true

/-- FSTA.COUNT, the FIFO occupancy in bytes (R33). -/
def fifoCount (fifo : List Byte) : Word := BitVec.ofNat 32 fifo.length

/-- FSTA.TFHALF (R242). -/
def tfhalf (level : Nat) (fifo : List Byte) : Bool := decide (fifo.length ≤ level)

/-! ## Latched flags: write one to clear -/

/-- A latched flag after a write of `bit` to it (R16 W1C). -/
def w1c (flag bit : Bool) : Bool := flag && !bit

/-- WR.CSTA (R161): CMDON is live and is not affected. -/
def clearCsta (l : Config.CstaLayout) (f : CstaFlags) (v : Word) : CstaFlags where
  rspfin := w1c f.rspfin (bitAt v l.rspfin)
  cmdtimeout := w1c f.cmdtimeout (bitAt v l.cmdtimeout)
  cmdsent := w1c f.cmdsent (bitAt v l.cmdsent)

/-- WR.DSTA (R178). -/
def clearDsta (l : Config.DstaLayout) (f : DstaFlags) (v : Word) : DstaFlags where
  xferfinish := w1c f.xferfinish (bitAt v l.xferfinish)
  datatimeout := w1c f.datatimeout (bitAt v l.datatimeout)
  rxcrcfail := w1c f.rxcrcfail (bitAt v l.rxcrcfail)
  crcfail := w1c f.crcfail (bitAt v l.crcfail)
  fifofail := w1c f.fifofail (bitAt v l.fifofail)

/-! ## The sequencer's tests (R124) -/

/-- The bit ISSUE waits for: CMDSENT without a response, RSPFIN with one (R290). -/
def expectedBit (l : Config.CstaLayout) (kind : RspKind) (csta : Word) : Bool :=
  match kind with
  | .none => bitAt csta l.cmdsent
  | _ => bitAt csta l.rspfin

/-- What ISSUE returns on success (R290). -/
def issueSuccess (kind : RspKind) : IssueResult :=
  match kind with
  | .none => .sent
  | _ => .responded

/-- `dsta & DSTA_ERRMASK` (R300). -/
def errorBits (l : Config.DstaLayout) (dsta : Word) : Word := dsta &&& maskOf l.errors

/-- The set of flags a masked status word stands for (R340). -/
def errorSet (l : Config.DstaLayout) (bits : Word) : ErrorSet where
  fifofail := bitAt bits l.fifofail
  crcfail := bitAt bits l.crcfail
  rxcrcfail := bitAt bits l.rxcrcfail
  datatimeout := bitAt bits l.datatimeout

/-- FSTA.COUNT of a status word, as a number. -/
def countOf (l : Config.FstaLayout) (fsta : Word) : Nat := (l.count.get fsta).toNat

/-! ## The source's four-name taxonomy of errors (R340) -/

/-- The names of the source's error taxonomy that an outcome of EXECUTE maps onto. -/
inductive Taxonomy where
  | success | commandTimeout | dataCorruption | dataTimeout | configurationError
  deriving DecidableEq, Repr

/-- Any of the three corruption flags gives DataCorruption; the data timeout alone is DataTimeout (R340). -/
def taxonomy : TransferOutcome → Taxonomy
  | .success _ => .success
  | .failure .configurationError => .configurationError
  | .failure .commandTimeout => .commandTimeout
  | .failure .dataTimeout => .dataTimeout
  | .failure (.dataError k) => if k.fifofail || k.crcfail || k.rxcrcfail then .dataCorruption else .dataTimeout

end Sys2Proof.Machine
end

