-- ==== Sys2Proof/Machine/Operands.lean ====
section
/-! DEFINITION. Operand assembly: the words the registers read as (40_register_access.md), the words the sequencer
assembles from its operands (R120 to R123), and the checks of those operands (R133, R134). -/

namespace Sys2Proof.Machine

/-! ## What the named bits of a register read as -/

/-- The named bits of CON: the two action bits read 0 (R151). -/
def conWord (l : Config.ConLayout) (r : Regs) : Word := bitWord l.clktype r.clktype

/-- The stored fields of CCON (R158). -/
def cconWord (l : Config.CconLayout) (f : CconFields) : Word :=
  cconFormWord l f.index f.senderhost false f.waitrsp f.longrsp

/-- The named bits of CSTA (R160). -/
def cstaWord (l : Config.CstaLayout) (ce : CmdEngine) (f : CstaFlags) : Word :=
  wordOf [(flag l.cmdon, ofFlag (cmdon ce)), (flag l.rspfin, ofFlag f.rspfin),
    (flag l.cmdtimeout, ofFlag f.cmdtimeout), (flag l.cmdsent, ofFlag f.cmdsent)]

/-- The stored fields of DCON (R172). -/
def dconWord (l : Config.DconLayout) (f : DconFields) : Word :=
  dconFieldsWord l f.blknum f.datmode false f.widebus f.blockmode f.racmd f.tarsp f.datasize

/-- The named bits of DSTA (R177). -/
def dstaWord (l : Config.DstaLayout) (f : DstaFlags) : Word :=
  wordOf [(flag l.xferfinish, ofFlag f.xferfinish), (flag l.fifofail, ofFlag f.fifofail),
    (flag l.crcfail, ofFlag f.crcfail), (flag l.rxcrcfail, ofFlag f.rxcrcfail),
    (flag l.datatimeout, ofFlag f.datatimeout)]

/-- The named bits of FSTA (R179). -/
def fstaWord (c : Config) (fifo : List Byte) : Word :=
  wordOf [(c.layout.fsta.count, fifoCount fifo), (flag c.layout.fsta.tfhalf, ofFlag (tfhalf c.txReadyLevel fifo))]

/-! ## What the sequencer assembles -/

/-- The all-ones clear pattern (R125). -/
abbrev allOnes : Word := 0xFFFFFFFF#32

/-- `ccon_word(cmd)` (R120). -/
def commandWord (l : Config.CconLayout) (cmd : Command) : Word :=
  cconFormWord l cmd.index true true (decide (cmd.kind ≠ .none)) (decide (cmd.kind = .long))

/-- `dcon_word(d)` (R121). -/
def dataControlWord (l : Config.DconLayout) (d : Descriptor) : Word :=
  dataFormWord l d.direction (BitVec.ofNat 11 d.blockCount) (decide (d.busWidth = 4))

/-- `ceil(rate / target) - 1`, clamped at 0, over the naturals (R123). -/
def dividerFor (rate target : Nat) : Nat := (rate + target - 1) / target - 1

/-- The CON word of PROBE's last access (R125). -/
def probeConWord (c : Config) : Word := conCfgWord c.layout.con c.clktypeInit true

/-! ## Checks of operands -/

/-- The byte count of a transfer (R61). -/
def totalBytes (d : Descriptor) : Nat := d.blockSize * d.blockCount

/-- The contract of R133 that EXECUTE requires of a descriptor beside the block-count bound. -/
def contract (c : Config) (cmd : Command) (d : Descriptor) : Bool :=
  decide (totalBytes d % 4 = 0) && decide (d.bufferLength = totalBytes d) && decide (d.busWidth ∈ Config.busWidths)
    && decide (d.blockCount ≠ 0) && decide (d.blockSize ≠ 0) && decide (d.blockSize ≤ c.layout.bsize.max)
    && !(decide (d.direction = .tx) && decide (cmd.kind = .none))

end Sys2Proof.Machine
end

