-- ==== Sys2Proof/Machine/ControlForms.lean ====
section
/-! DEFINITION. The meanings of the named forms of the words written to CON, CCON and DCON (R111, R112, R114): each is
the host write of a word of that form. -/

namespace Sys2Proof.Machine

/-- CON.RESET (R153, R381). -/
def execConReset (s : State) : Result := .next (softwareReset s)

/-- CON.CFG (R152, R382). -/
def execConCfg (clktype fiforeset : Bool) (s : State) : Result := configure clktype fiforeset s

/-- CMD.NORSP (R200): arm a command that expects no response. -/
def execCmdNorsp (index : BitVec 6) (s : State) : Result := armCommand index false false s

/-- CMD.SHORT (R201): arm a command that expects a 32-bit response. -/
def execCmdShort (index : BitVec 6) (s : State) : Result := armCommand index true false s

/-- CMD.LONG (R202): arm a command that expects a 128-bit response. -/
def execCmdLong (index : BitVec 6) (s : State) : Result := armCommand index true true s

/-- CCON.STORE (R204): the fields are stored and no command is armed. -/
def execCconStore (index : BitVec 6) (senderhost waitrsp longrsp : Bool) (s : State) : Result :=
  .next (storeCcon ⟨index, senderhost, waitrsp, longrsp⟩ s)

/-- DATA.RX (R232): arm a read transfer. -/
def execDataRx (blknum : BitVec 11) (widebus : Bool) (s : State) : Result := armData .rx blknum widebus s

/-- DATA.TX (R233): arm a write transfer. -/
def execDataTx (blknum : BitVec 11) (widebus : Bool) (s : State) : Result := armData .tx blknum widebus s

/-- DATA.OFF (R236): the zero write. -/
def execDataOff (s : State) : Result := .next (dataControlOff s)

end Sys2Proof.Machine
end

