-- ==== Sys2Proof/Machine/Events.lean ====
section
/-! DEFINITION. The meanings of the device events (R210 to R213, R250 to R252, R260 to R264). An event whose guard does
not hold is no step of the machine and is refused (R14, log entry 18). -/

namespace Sys2Proof.Machine

/-- EV.CMD_SENT (R210). -/
def execEvCmdSent (s : State) : Result :=
  match s.ce with
  | .sending index arg wait long =>
    .next ((((s.appendCard (.cmdFrame index arg)).setRegs
      { s.regs with csta := { s.regs.csta with cmdsent := true } }).setCe
        (if wait then .waitRsp long else .idle)).setDe (startPhase .rx s.de))
  | _ => .refused .eventNotEnabled

/-- EV.RSP_SHORT(w) (R211): RSP1 to RSP3 are left without value. -/
def execEvRspShort (w : Word) (s : State) : Result :=
  match s.ce with
  | .waitRsp false => .next (responseArrives [w] (some w) none none none s)
  | _ => .refused .eventNotEnabled

/-- EV.RSP_LONG(w0, w1, w2, w3) (R212). -/
def execEvRspLong (w0 w1 w2 w3 : Word) (s : State) : Result :=
  match s.ce with
  | .waitRsp true => .next (responseArrives [w0, w1, w2, w3] (some w0) (some w1) (some w2) (some w3) s)
  | _ => .refused .eventNotEnabled

/-- EV.RSP_TIMEOUT (R213): the response registers and the data engine stay. -/
def execEvRspTimeout (s : State) : Result :=
  match s.ce with
  | .waitRsp _ =>
    .next ((s.setRegs { s.regs with csta := { s.regs.csta with cmdtimeout := true } }).setCe .idle)
  | _ => .refused .eventNotEnabled

/-- EV.RX_BYTES(bs) (R250): not enabled without room for every byte. -/
def execEvRxBytes (bs : List Byte) (s : State) : Result :=
  match s.de with
  | .active .rx left =>
    if 1 ≤ bs.length ∧ bs.length ≤ left ∧ s.fifo.length + bs.length ≤ s.config.fifoDepth then
      .next (((s.appendCard (.rxBytes bs)).setFifo (s.fifo ++ bs)).setDe (.active .rx (left - bs.length)))
    else .refused .eventNotEnabled
  | _ => .refused .eventNotEnabled

/-- EV.TX_BYTES(k) (R251): the k oldest bytes leave the FIFO in order. -/
def execEvTxBytes (k : Nat) (s : State) : Result :=
  match s.de with
  | .active .tx left =>
    if 1 ≤ k ∧ k ≤ left ∧ k ≤ s.fifo.length then
      .next (((s.appendCard (.txBytes (s.fifo.take k))).setFifo (s.fifo.drop k)).setDe (.active .tx (left - k)))
    else .refused .eventNotEnabled
  | _ => .refused .eventNotEnabled

/-- EV.DATA_FINISH (R252): enabled when every byte has crossed the card interface. -/
def execEvDataFinish (s : State) : Result :=
  match s.de with
  | .active _ 0 =>
    .next ((s.setRegs { s.regs with dsta := { s.regs.dsta with xferfinish := true } }).setDe .done)
  | _ => .refused .eventNotEnabled

/-- EV.CRC_FAIL (R260, R264). -/
def execEvCrcFail (stops : Bool) (s : State) : Result :=
  dataErrorEvent { s.regs.dsta with crcfail := true } stops s

/-- EV.RXCRC_FAIL (R261, R264). -/
def execEvRxcrcFail (stops : Bool) (s : State) : Result :=
  dataErrorEvent { s.regs.dsta with rxcrcfail := true } stops s

/-- EV.DATA_TIMEOUT (R262, R264): the stored period does not appear in the guard. -/
def execEvDataTimeout (stops : Bool) (s : State) : Result :=
  dataErrorEvent { s.regs.dsta with datatimeout := true } stops s

/-- EV.FIFO_FAIL (R263, R264). -/
def execEvFifoFail (stops : Bool) (s : State) : Result :=
  dataErrorEvent { s.regs.dsta with fifofail := true } stops s

end Sys2Proof.Machine
end

