-- ==== Sys2Proof/Machine/Registers.lean ====
section
/-! DEFINITION. The meanings of the register accesses (40_register_access.md, R150 to R184): one definition per read
and per write, over the shared operations. -/

namespace Sys2Proof.Machine

/-! ## CON -/

/-- RD.CON (R151). -/
def execRdCon (s : State) : Result := readWithDraw (maskOf s.config.layout.con.fields) (conWord s.config.layout.con s.regs) s

/-- WR.CON (R152, R153): SDRESET = 1 is the software reset and every other bit is ignored; SDRESET = 0 stores
CLKTYPE and acts on FIFORESET. -/
def execWrCon (v : Word) (s : State) : Result :=
  if bitAt v s.config.layout.con.sdreset then .next (softwareReset s)
  else configure (bitAt v s.config.layout.con.clktype) (bitAt v s.config.layout.con.fiforeset) s

/-! ## PRE -/

/-- RD.PRE (R154). -/
def execRdPre (s : State) : Result :=
  readWithDraw s.config.layout.pre.mask (s.config.layout.pre.put s.regs.div) s

/-- WR.PRE (R155): bits above the field are ignored; refused while a command or a data phase runs. -/
def execWrPre (v : Word) (s : State) : Result :=
  match s.ce, s.de with
  | .idle, .active _ _ => .refused .prescalerInUse
  | .idle, _ => s.updateRegs { s.regs with div := s.config.layout.pre.get v }
  | _, _ => .refused .prescalerInUse

/-! ## CARG -/

/-- RD.CARG (R156). -/
def execRdCarg (s : State) : Result := readWhole s.regs.carg s

/-- WR.CARG (R157). -/
def execWrCarg (v : Word) (s : State) : Result := s.updateRegs { s.regs with carg := v }

/-! ## CCON -/

/-- RD.CCON (R158): CMDSTART reads as a draw. -/
def execRdCcon (s : State) : Result :=
  readWithDraw (maskOf s.config.layout.ccon.stored) (cconWord s.config.layout.ccon s.regs.ccon) s

/-- WR.CCON (R159): with CMDSTART the word arms a command, in one of three forms (R200 to R202) or not at all
(R130, log entry 10); without it the word is only stored (R204). -/
def execWrCcon (v : Word) (s : State) : Result :=
  if bitAt v s.config.layout.ccon.cmdstart then
    match commandForm s.config.layout.ccon v with
    | some (wait, long) => armCommand (indexOf s.config.layout.ccon v) wait long s
    | none => .refused .reservedCommandWord
  else
    .next (storeCcon ⟨indexOf s.config.layout.ccon v, bitAt v s.config.layout.ccon.senderhost,
      bitAt v s.config.layout.ccon.waitrsp, bitAt v s.config.layout.ccon.longrsp⟩ s)

/-! ## CSTA -/

/-- RD.CSTA (R160): a read clears nothing. -/
def execRdCsta (s : State) : Result :=
  readWithDraw (maskOf s.config.layout.csta.fields) (cstaWord s.config.layout.csta s.ce s.regs.csta) s

/-- WR.CSTA (R161): write one to clear. -/
def execWrCsta (v : Word) (s : State) : Result :=
  s.updateRegs { s.regs with csta := clearCsta s.config.layout.csta s.regs.csta v }

/-! ## RSP0 to RSP3 -/

/-- RD.RSP0 (R162, R166). -/
def execRdRsp0 (s : State) : Result := readResponseRegister s.regs.rsp0 s

/-- WR.RSP0 (R167): ignored, only the command engine writes the response registers. -/
def execWrRsp0 (_v : Word) (s : State) : Result := ignoredWrite s

/-- RD.RSP1 (R163, R166). -/
def execRdRsp1 (s : State) : Result := readResponseRegister s.regs.rsp1 s

/-- WR.RSP1 (R167): ignored, only the command engine writes the response registers. -/
def execWrRsp1 (_v : Word) (s : State) : Result := ignoredWrite s

/-- RD.RSP2 (R164, R166). -/
def execRdRsp2 (s : State) : Result := readResponseRegister s.regs.rsp2 s

/-- WR.RSP2 (R167): ignored, only the command engine writes the response registers. -/
def execWrRsp2 (_v : Word) (s : State) : Result := ignoredWrite s

/-- RD.RSP3 (R165, R166). -/
def execRdRsp3 (s : State) : Result := readResponseRegister s.regs.rsp3 s

/-- WR.RSP3 (R167): ignored, only the command engine writes the response registers. -/
def execWrRsp3 (_v : Word) (s : State) : Result := ignoredWrite s

/-! ## DTIMER -/

/-- RD.DTIMER (R168). -/
def execRdDtimer (s : State) : Result :=
  readWithDraw s.config.layout.dtimer.mask (s.config.layout.dtimer.put s.regs.dtimer) s

/-- WR.DTIMER (R169). -/
def execWrDtimer (v : Word) (s : State) : Result :=
  s.updateRegs { s.regs with dtimer := s.config.layout.dtimer.get v }

/-! ## BSIZE -/

/-- RD.BSIZE (R170). -/
def execRdBsize (s : State) : Result :=
  readWithDraw s.config.layout.bsize.mask (s.config.layout.bsize.put s.regs.bsize) s

/-- WR.BSIZE (R171): refused while the data engine is armed or active. -/
def execWrBsize (v : Word) (s : State) : Result :=
  match s.de with
  | .armed _ _ => .refused .blockSizeInUse
  | .active _ _ => .refused .blockSizeInUse
  | _ => s.updateRegs { s.regs with bsize := s.config.layout.bsize.get v }

/-! ## DCON -/

/-- RD.DCON (R172): DATSTART reads as a draw. -/
def execRdDcon (s : State) : Result :=
  readWithDraw (maskOf s.config.layout.dcon.stored) (dconWord s.config.layout.dcon s.regs.dcon) s

/-- WR.DCON (R173): the zero word, one of the two arming forms, or a reserved word (R131). -/
def execWrDcon (v : Word) (s : State) : Result :=
  if v = 0#32 then .next (dataControlOff s)
  else match dataForm s.config.layout.dcon v with
    | some dir => armData dir (blknumOf s.config.layout.dcon v) (bitAt v s.config.layout.dcon.widebus) s
    | none => .refused .reservedDataWord

/-! ## DCNT -/

/-- RD.DCNT (R175): any word. -/
def execRdDcnt (s : State) : Result := readWithDraw 0#32 0#32 s

/-- WR.DCNT (R176): ignored. -/
def execWrDcnt (_v : Word) (s : State) : Result := ignoredWrite s

/-! ## DSTA -/

/-- RD.DSTA (R177): a read clears nothing. -/
def execRdDsta (s : State) : Result :=
  readWithDraw (maskOf s.config.layout.dsta.fields) (dstaWord s.config.layout.dsta s.regs.dsta) s

/-- WR.DSTA (R178): write one to clear; the data engine and the FIFO stay. -/
def execWrDsta (v : Word) (s : State) : Result :=
  s.updateRegs { s.regs with dsta := clearDsta s.config.layout.dsta s.regs.dsta v }

/-! ## FSTA -/

/-- RD.FSTA (R179): both fields are computed at the moment of the read. -/
def execRdFsta (s : State) : Result :=
  readWithDraw (maskOf s.config.layout.fsta.fields) (fstaWord s.config s.fifo) s

/-- WR.FSTA (R180): no effect on any named state. -/
def execWrFsta (_v : Word) (s : State) : Result := ignoredWrite s

/-! ## IMSK -/

/-- RD.IMSK (R181). -/
def execRdImsk (s : State) : Result := readWhole s.regs.imsk s

/-- WR.IMSK (R182): refused when the word is not zero (R34). -/
def execWrImsk (v : Word) (s : State) : Result :=
  if v = 0#32 then s.updateRegs { s.regs with imsk := v } else .refused .interruptMask

/-! ## DAT -/

/-- RD.DAT (R183, R240): the FIFO pop. -/
def execRdDat (s : State) : Result := fifoPop s

/-- WR.DAT (R184, R241): the FIFO push. -/
def execWrDat (v : Word) (s : State) : Result := fifoPush v s

end Sys2Proof.Machine
end

