-- ==== Sys2Proof/Machine/SessionOps.lean ====
section
/-! DEFINITION. The session operations (43_session_operations.md): how each starts, which access the sequencer performs
next, and what it does with the value read. Each is a fixed program of register accesses; between two of them
device events may occur, so a session operation runs over many steps (R100, log entry 14). The sequencer's parameters
are those of the configuration in State (R9, R10, R11). -/

namespace Sys2Proof.Machine

/-! ## Starting -/

/-- Why a session operation may not start: another runs (R8, R280), or it needs a ControllerState and there is
none (R346, R380). Log entry 23. -/
def startRefusal (needsController : Bool) (s : State) : Option Refusal :=
  if s.session = .idle ∧ s.pc = .idle then
    if needsController && s.ctrl.isNone then some .notProbed else none
  else some .sequencerBusy

/-- The working registers at the start of EXECUTE. R281 gives `resp` and `rem`. DESIGN CHOICE, log entry 32: R61 and the
pseudocode of R281, R290 and R300 give `n`, `csta`, `dsta`, `fsta`, `off`, `i`, `w`, `r`, `t` and `c` no value before
their first assignment, and no rule reads one before it; the model puts 0 or `none` there. -/
def newRun (cmd : Command) (data : Option Descriptor) (rem : Nat) : ExecRun where
  cmd := cmd
  data := data
  pos := .callIssue
  n := 0
  csta := 0#32
  dsta := 0#32
  fsta := 0#32
  off := 0
  rem := rem
  i := 0
  w := 0#32
  resp := .none
  r := none
  t := none
  c := none

/-- EXECUTE after its validation: CommandPhase, ISSUE comes next (R281, R335). -/
def beginExecute (cmd : Command) (data : Option Descriptor) (rem : Nat) (s : State) : State :=
  (s.startSession (.execute (newRun cmd data rem))).setPc .commandPhase

/-- EXECUTE (R281, R282): validation comes before every register access. An oversized block count is the outcome
ConfigurationError (R345); another bad operand is refused (R133). -/
def execExecute (cmd : Command) (data : Option Descriptor) (s : State) : Result :=
  match startRefusal true s with
  | some why => .refused why
  | none =>
    match data with
    | none => .next (beginExecute cmd none 0 s)
    | some d =>
      if Config.blknumMax < d.blockCount then
        .next (enterFailure .configurationError .returnFailure (newRun cmd (some d) 0) (s.setResult none))
      else if contract s.config cmd d then .next (beginExecute cmd (some d) (totalBytes d) s)
      else .refused .contractViolation

/-- PROBE (R310): the base, then the clock, then the six accesses. A failure makes no access and creates no
ControllerState (R346, log entry 13). -/
def execProbe (binding : Binding) (s : State) : Result :=
  match startRefusal false s with
  | some why => .refused why
  | none =>
    match binding.base with
    | none => .next (s.endSession (.probe .missingBase))
    | some base =>
      if s.clock.available then
        .next ((s.setClock { s.clock with enabled := true }).startSession
          (.probe binding ⟨binding.clockName⟩ base .softwareReset))
      else .next (s.endSession (.probe .clockUnavailable))

/-- SET_CLOCK (R320): a zero target is the outcome ConfigurationError with no access and no query; a divider that
does not fit PRE is refused (R134). The rate is queried on every call (R323). -/
def execSetClock (target : Nat) (s : State) : Result :=
  match startRefusal true s with
  | some why => .refused why
  | none =>
    if target = 0 then .next (s.endSession (.setClock .configurationError))
    else if s.config.layout.pre.max < dividerFor s.clock.rate target then .refused .dividerTooLarge
    else .next (s.startSession (.setClock (dividerFor s.clock.rate target) .writePre))

/-- CARD_PRESENT (R330): the collaborator's answer, no register access. -/
def execCardPresent (s : State) : Result :=
  match startRefusal true s with
  | some why => .refused why
  | none => .next (s.endSession (.cardPresent s.gpio.cardDetect))

/-- WRITE_PROTECTED (R331): false; neither a register nor the line is read. -/
def execWriteProtected (s : State) : Result :=
  match startRefusal true s with
  | some why => .refused why
  | none => .next (s.endSession (.writeProtected false))

/-! ## What EXECUTE does when a sub-step returns (R281) -/

/-- ISSUE returned. -/
def issueReturned (r : IssueResult) (x : ExecRun) (s : State) : State :=
  match r with
  | .timedOut => failExecute .commandTimeout { x with r := some .timedOut } s
  | .sent => s.continueAt { x with r := some .sent } .callReadResponse
  | .responded => s.continueAt { x with r := some .responded } .callReadResponse

/-- READ_RESPONSE returned: with no data the completion phase has no access (R284). -/
def responseReturned (resp : Response) (x : ExecRun) (s : State) : State :=
  match x.data with
  | none => (s.continueAt { x with resp := resp } .finish).setPc .completionPhase
  | some _ => (s.continueAt { x with resp := resp } .callTransfer).setPc .dataPhase

/-- TRANSFER returned. -/
def transferReturned (t : TransferResult) (x : ExecRun) (s : State) : State :=
  if t.ok then
    (s.continueAt { x with t := some t, rem := t.bytesRemaining } .callWait).setPc .completionPhase
  else if t.errorKind = 0#32 then
    failExecute .dataTimeout { x with t := some t, rem := t.bytesRemaining } s
  else
    failExecute (.dataError (errorSet s.config.layout.dsta t.errorKind)) { x with t := some t, rem := t.bytesRemaining } s

/-- WAIT_COMPLETION returned. -/
def waitReturned (c : WaitResult) (x : ExecRun) (s : State) : State :=
  match c with
  | .finished => s.continueAt { x with c := some .finished } .finish
  | .timedOut => failExecute .dataTimeout { x with c := some .timedOut } s

/-- The head of the FIFO loop (R300): done, given up (only with DATA_LOOP_BOUND), or one more iteration. -/
def loopHead (x : ExecRun) (s : State) : State :=
  if x.rem = 0 then transferReturned ⟨true, 0, 0#32⟩ x s
  else
    match s.config.dataLoopBound with
    | none => s.continueAt x .readDsta
    | some bound =>
      if x.i = bound then transferReturned ⟨false, x.rem, 0#32⟩ x s
      else s.continueAt { x with i := x.i + 1 } .readDsta

/-! ## The sub-steps: called by EXECUTE alone, where it stands at the call (R280, log entry 11) -/

/-- ISSUE (R290): its first access comes next. -/
def execIssue (cmd : Command) (data : Option Descriptor) (s : State) : Result :=
  match s.session with
  | .execute x =>
    if x.pos = .callIssue ∧ x.cmd = cmd ∧ x.data = data then .next (s.continueAt x .clearCsta)
    else .refused .subStepNotCallable
  | _ => .refused .subStepNotCallable

/-- READ_RESPONSE (R295): for kind none it returns with no access. -/
def execReadResponse (kind : RspKind) (s : State) : Result :=
  match s.session with
  | .execute x =>
    if x.pos = .callReadResponse ∧ x.cmd.kind = kind then
      match kind with
      | .none => .next (responseReturned .none x s)
      | _ => .next (s.continueAt x .readRsp0)
    else .refused .subStepNotCallable
  | _ => .refused .subStepNotCallable

/-- TRANSFER (R300). -/
def execTransfer (d : Descriptor) (s : State) : Result :=
  match s.session with
  | .execute x =>
    if x.pos = .callTransfer ∧ x.data = some d then
      .next (loopHead { x with off := 0, rem := totalBytes d, i := 0 } s)
    else .refused .subStepNotCallable
  | _ => .refused .subStepNotCallable

/-- WAIT_COMPLETION (R308): the poll counter starts at its bound. -/
def execWaitCompletion (s : State) : Result :=
  match s.session with
  | .execute x =>
    if x.pos = .callWait then .next (s.continueAt { x with n := s.config.donePollBound } .pollDsta)
    else .refused .subStepNotCallable
  | _ => .refused .subStepNotCallable

/-! ## What the sequencer does next -/

/-- The sequencer's next step: a register access, the call of a sub-step, a step without an access (a settle
delay, an end, or nothing at all), or a stop. -/
inductive Todo where
  | access (i : Instr)
  | call (i : Instr)
  | silent
  | stop (why : Fault)
  deriving DecidableEq, Repr

/-- The access of one word of the FIFO loop (R300 steps 3 and 4). TRANSFER touches no byte outside the buffer
(R82). -/
def moveTodo (x : ExecRun) (buffer : Memory) : Todo :=
  match x.data with
  | none => .silent
  | some d =>
    if x.off + 4 ≤ d.bufferLength then
      match d.direction with
      | .rx => .access .rdDat
      | .tx => .access (.wrDat (bufRead32 buffer x.off))
    else .stop .outsideBuffer

/-- The next step of EXECUTE: the programs of R290, R295, R300, R308 and of `fail` in R281. DESIGN CHOICE, log entry 34: R122
gives the word written to BSIZE as `zext_32(block_size)`; the model puts the block size in the field VAL, wherever LAYOUT
has it. -/
def executeTodo (c : Config) (x : ExecRun) (buffer : Memory) : Todo :=
  match x.pos with
  | .callIssue => .call (.issue x.cmd x.data)
  | .clearCsta => .access (.wrCsta allOnes)
  | .clearDsta => .access (.wrDsta allOnes)
  | .clearFsta => .access (.wrFsta allOnes)
  | .writeBsize =>
    match x.data with
    | some d => .access (.wrBsize (c.layout.bsize.put (BitVec.ofNat 32 d.blockSize)))
    | none => .silent
  | .writeDcon => match x.data with | some d => .access (.wrDcon (dataControlWord c.layout.dcon d)) | none => .silent
  | .writeCarg => .access (.wrCarg x.cmd.argument)
  | .writeCcon => .access (.wrCcon (commandWord c.layout.ccon x.cmd))
  | .pollCsta => .access .rdCsta
  | .clearConsumed => .access (.wrCsta (x.csta &&& maskOf c.layout.csta.fields))
  | .callReadResponse => .call (.readResponse x.cmd.kind)
  | .readRsp0 => .access .rdRsp0
  | .readRsp1 => .access .rdRsp1
  | .readRsp2 => .access .rdRsp2
  | .readRsp3 => .access .rdRsp3
  | .callTransfer => match x.data with | some d => .call (.transfer d) | none => .silent
  | .readDsta => .access .rdDsta
  | .readFsta => .access .rdFsta
  | .moveWord => moveTodo x buffer
  | .callWait => .call .waitCompletion
  | .pollDsta => .access .rdDsta
  | .clearDone => .access (.wrDsta c.dstaDoneClear)
  | .dataOff => .access (.wrDcon 0#32)
  | .finish => .silent
  | .clearDcon => .access (.wrDcon 0#32)
  | .returnFailure => .silent

/-- The next step of PROBE (R310). DESIGN CHOICE, log entry 34: R125 has DTIMER_INIT and BSIZE_INIT written as they are; the
model puts each in the field VAL, wherever LAYOUT has it, cut to its width. -/
def probeTodo (c : Config) : ProbePos → Todo
  | .softwareReset => .access (.wrCon (bitWord c.layout.con.sdreset true))
  | .settle => .silent
  | .writeDtimer => .access (.wrDtimer (c.layout.dtimer.put c.dtimerInit))
  | .writeBsize => .access (.wrBsize (c.layout.bsize.put c.bsizeInit))
  | .writeImsk => .access (.wrImsk 0#32)
  | .configure => .access (.wrCon (probeConWord c))

/-- The next step of SET_CLOCK (R320). DESIGN CHOICE, log entry 34: R123 gives the divider as the prescaler value; the model
puts it in the field DIV, wherever LAYOUT has it. -/
def clockTodo (c : Config) (divider : Nat) : ClockPos → Todo
  | .writePre => .access (.wrPre (c.layout.pre.put (BitVec.ofNat 32 divider)))
  | .settle => .silent

/-- The sequencer's next step. -/
def todo (s : State) : Todo :=
  match s.session with
  | .idle => .silent
  | .execute x => executeTodo s.config x s.buffer
  | .probe _ _ _ pos => probeTodo s.config pos
  | .setClock divider pos => clockTodo s.config divider pos

/-! ## What the sequencer does with an access it has performed -/

/-- One read of the command-status poll (R290 step 4, R291): expected bit, timeout bit, count, in that order. -/
def afterPollCsta (v : Word) (x : ExecRun) (s : State) : State :=
  if expectedBit s.config.layout.csta x.cmd.kind v then s.continueAt { x with csta := v } .clearConsumed
  else if bitAt v s.config.layout.csta.cmdtimeout then issueReturned .timedOut { x with csta := v } s
  else if x.n - 1 = 0 then issueReturned .timedOut { x with csta := v, n := x.n - 1 } s
  else s.continueAt { x with csta := v, n := x.n - 1 } .pollCsta

/-- The tests of one iteration of the FIFO loop (R300 steps 2 to 4, R301, R302, R304), after both status reads. -/
def afterStatus (x : ExecRun) (s : State) : State :=
  if errorBits s.config.layout.dsta x.dsta ≠ 0#32 then
    transferReturned ⟨false, x.rem, errorBits s.config.layout.dsta x.dsta⟩ x s
  else
    match x.data with
    | none => s
    | some d =>
      match d.direction with
      | .rx => if countOf s.config.layout.fsta x.fsta < 4 then loopHead x s else s.continueAt x .moveWord
      | .tx => if bitAt x.fsta s.config.layout.fsta.tfhalf then s.continueAt x .moveWord else loopHead x s

/-- One word was moved (R300 steps 3 to 5, R303): the read path stores it in the buffer. -/
def afterMove (v : Word) (x : ExecRun) (s : State) : State :=
  match x.data with
  | none => s
  | some d =>
    match d.direction with
    | .rx => loopHead { x with w := v, off := x.off + 4, rem := x.rem - 4 } (s.setBuffer (bufWrite32 s.buffer x.off v))
    | .tx => loopHead { x with w := bufRead32 s.buffer x.off, off := x.off + 4, rem := x.rem - 4 } s

/-- One read of the completion poll (R308): XFERFINISH, DATATIMEOUT, count, in that order. -/
def afterPollDsta (v : Word) (x : ExecRun) (s : State) : State :=
  if bitAt v s.config.layout.dsta.xferfinish then s.continueAt { x with dsta := v } .clearDone
  else if bitAt v s.config.layout.dsta.datatimeout then waitReturned .timedOut { x with dsta := v } s
  else if x.n - 1 = 0 then waitReturned .timedOut { x with dsta := v, n := x.n - 1 } s
  else s.continueAt { x with dsta := v, n := x.n - 1 } .pollDsta

/-- Word `k` of a response read so far, replaced (R295). -/
def withResponseWord (resp : Response) (k : Nat) (v : Word) : Response :=
  match resp, k with
  | .long w0 _ w2 w3, 1 => .long w0 v w2 w3
  | .long w0 w1 _ w3, 2 => .long w0 w1 v w3
  | .long w0 w1 w2 _, 3 => .long w0 w1 w2 v
  | r, _ => r

/-- EXECUTE after an access whose read value, if it is a read, is `v`. -/
def afterExecuteAccess (v : Word) (x : ExecRun) (s : State) : State :=
  match x.pos with
  | .clearCsta => s.continueAt x .clearDsta
  | .clearDsta => s.continueAt x .clearFsta
  | .clearFsta => s.continueAt x (if x.data.isSome then .writeBsize else .writeCarg)
  | .writeBsize => s.continueAt x .writeDcon
  | .writeDcon => s.continueAt x .writeCarg
  | .writeCarg => s.continueAt x .writeCcon
  | .writeCcon => s.continueAt { x with n := s.config.cmdPollBound } .pollCsta
  | .pollCsta => afterPollCsta v x s
  | .clearConsumed => issueReturned (issueSuccess x.cmd.kind) x s
  | .readRsp0 =>
    match x.cmd.kind with
    | .long => s.continueAt { x with resp := .long v 0#32 0#32 0#32 } .readRsp1
    | _ => responseReturned (.short v) x s
  | .readRsp1 => s.continueAt { x with resp := withResponseWord x.resp 1 v } .readRsp2
  | .readRsp2 => s.continueAt { x with resp := withResponseWord x.resp 2 v } .readRsp3
  | .readRsp3 => responseReturned (withResponseWord x.resp 3 v) x s
  | .readDsta => s.continueAt { x with dsta := v } .readFsta
  | .readFsta => afterStatus { x with fsta := v } s
  | .moveWord => afterMove v x s
  | .pollDsta => afterPollDsta v x s
  | .clearDone => s.continueAt x .dataOff
  | .dataOff => waitReturned .finished x s
  | .clearDcon => s.continueAt x .returnFailure
  | .callIssue | .callReadResponse | .callTransfer | .callWait | .finish | .returnFailure => s

/-- PROBE after an access; the last one creates ControllerState (R310). -/
def afterProbeAccess (binding : Binding) (handle : ClockHandle) (base : Nat) (pos : ProbePos) (s : State) : State :=
  match pos with
  | .softwareReset => s.setSession (.probe binding handle base .settle)
  | .settle => s
  | .writeDtimer => s.setSession (.probe binding handle base .writeBsize)
  | .writeBsize => s.setSession (.probe binding handle base .writeImsk)
  | .writeImsk => s.setSession (.probe binding handle base .configure)
  | .configure =>
    (s.setCtrl (some ⟨handle, none, binding.cdRef, binding.wpRef, base⟩)).endSession (.probe .ok)

/-- The sequencer after an access of its own; the value of a read is the word the host read returned. -/
def afterAccess (s : State) : State :=
  match s.session with
  | .idle => s
  | .execute x => afterExecuteAccess s.hostWord x s
  | .probe binding handle base pos => afterProbeAccess binding handle base pos s
  | .setClock divider _ => s.setSession (.setClock divider .settle)

/-- The sequencer's step without an access: the ends of EXECUTE, the settle delays, which are stutter (R383,
log entry 16), and nothing at all with no operation running (log entry 21). -/
def silentStep (s : State) : State :=
  match s.session with
  | .idle => s
  | .execute x =>
    match x.pos with
    | .finish => returnSuccess x s
    | .returnFailure => returnFailure x s
    | _ => s
  | .probe binding handle base .settle => s.setSession (.probe binding handle base .writeDtimer)
  | .probe _ _ _ _ => s
  | .setClock divider .settle =>
    (s.setCtrl (s.ctrl.map fun c => { c with divider := some divider })).endSession (.setClock .ok)
  | .setClock _ .writePre => s

end Sys2Proof.Machine
end

