-- ==== Sys2Proof/Machine/Dispatch.lean ====
section
/-! DEFINITION. One arm per operation: which meaning it has. -/

namespace Sys2Proof.Machine

/-- The meaning of an operation. -/
def exec (i : Instr) (s : State) : Host.Outcome State Fault Refusal :=
  match i with
  | .rdCon => Sys2Proof.Machine.execRdCon s
  | .wrCon v => Sys2Proof.Machine.execWrCon v s
  | .rdPre => Sys2Proof.Machine.execRdPre s
  | .wrPre v => Sys2Proof.Machine.execWrPre v s
  | .rdCarg => Sys2Proof.Machine.execRdCarg s
  | .wrCarg v => Sys2Proof.Machine.execWrCarg v s
  | .rdCcon => Sys2Proof.Machine.execRdCcon s
  | .wrCcon v => Sys2Proof.Machine.execWrCcon v s
  | .rdCsta => Sys2Proof.Machine.execRdCsta s
  | .wrCsta v => Sys2Proof.Machine.execWrCsta v s
  | .rdRsp0 => Sys2Proof.Machine.execRdRsp0 s
  | .wrRsp0 v => Sys2Proof.Machine.execWrRsp0 v s
  | .rdRsp1 => Sys2Proof.Machine.execRdRsp1 s
  | .wrRsp1 v => Sys2Proof.Machine.execWrRsp1 v s
  | .rdRsp2 => Sys2Proof.Machine.execRdRsp2 s
  | .wrRsp2 v => Sys2Proof.Machine.execWrRsp2 v s
  | .rdRsp3 => Sys2Proof.Machine.execRdRsp3 s
  | .wrRsp3 v => Sys2Proof.Machine.execWrRsp3 v s
  | .rdDtimer => Sys2Proof.Machine.execRdDtimer s
  | .wrDtimer v => Sys2Proof.Machine.execWrDtimer v s
  | .rdBsize => Sys2Proof.Machine.execRdBsize s
  | .wrBsize v => Sys2Proof.Machine.execWrBsize v s
  | .rdDcon => Sys2Proof.Machine.execRdDcon s
  | .wrDcon v => Sys2Proof.Machine.execWrDcon v s
  | .rdDcnt => Sys2Proof.Machine.execRdDcnt s
  | .wrDcnt v => Sys2Proof.Machine.execWrDcnt v s
  | .rdDsta => Sys2Proof.Machine.execRdDsta s
  | .wrDsta v => Sys2Proof.Machine.execWrDsta v s
  | .rdFsta => Sys2Proof.Machine.execRdFsta s
  | .wrFsta v => Sys2Proof.Machine.execWrFsta v s
  | .rdImsk => Sys2Proof.Machine.execRdImsk s
  | .wrImsk v => Sys2Proof.Machine.execWrImsk v s
  | .rdDat => Sys2Proof.Machine.execRdDat s
  | .wrDat v => Sys2Proof.Machine.execWrDat v s
  | .conReset => Sys2Proof.Machine.execConReset s
  | .conCfg clktype fiforeset => Sys2Proof.Machine.execConCfg clktype fiforeset s
  | .cmdNorsp index => Sys2Proof.Machine.execCmdNorsp index s
  | .cmdShort index => Sys2Proof.Machine.execCmdShort index s
  | .cmdLong index => Sys2Proof.Machine.execCmdLong index s
  | .cconStore index senderhost waitrsp longrsp => Sys2Proof.Machine.execCconStore index senderhost waitrsp longrsp s
  | .dataRx blknum widebus => Sys2Proof.Machine.execDataRx blknum widebus s
  | .dataTx blknum widebus => Sys2Proof.Machine.execDataTx blknum widebus s
  | .dataOff => Sys2Proof.Machine.execDataOff s
  | .execute cmd data => Sys2Proof.Machine.execExecute cmd data s
  | .issue cmd data => Sys2Proof.Machine.execIssue cmd data s
  | .readResponse kind => Sys2Proof.Machine.execReadResponse kind s
  | .transfer d => Sys2Proof.Machine.execTransfer d s
  | .waitCompletion => Sys2Proof.Machine.execWaitCompletion s
  | .probe binding => Sys2Proof.Machine.execProbe binding s
  | .setClock target => Sys2Proof.Machine.execSetClock target s
  | .cardPresent => Sys2Proof.Machine.execCardPresent s
  | .writeProtected => Sys2Proof.Machine.execWriteProtected s
  | .evCmdSent => Sys2Proof.Machine.execEvCmdSent s
  | .evRspShort w => Sys2Proof.Machine.execEvRspShort w s
  | .evRspLong w0 w1 w2 w3 => Sys2Proof.Machine.execEvRspLong w0 w1 w2 w3 s
  | .evRspTimeout => Sys2Proof.Machine.execEvRspTimeout s
  | .evRxBytes bs => Sys2Proof.Machine.execEvRxBytes bs s
  | .evTxBytes k => Sys2Proof.Machine.execEvTxBytes k s
  | .evDataFinish => Sys2Proof.Machine.execEvDataFinish s
  | .evCrcFail stops => Sys2Proof.Machine.execEvCrcFail stops s
  | .evRxcrcFail stops => Sys2Proof.Machine.execEvRxcrcFail stops s
  | .evDataTimeout stops => Sys2Proof.Machine.execEvDataTimeout stops s
  | .evFifoFail stops => Sys2Proof.Machine.execEvFifoFail stops s

end Sys2Proof.Machine
end

