-- ==== Sys2Proof/Machine/Run.lean ====
section
/-! DEFINITION. How a step runs what comes next (R7, R100): a turn of the sequencer, a host operation, a device event, or
a change made by a collaborator or the caller. `step` only calls these. -/

namespace Sys2Proof.Machine

/-- A turn of the sequencer. Its register accesses are the operations of level L0, run by `exec` (R6). -/
def takeTurn (s : State) : Result :=
  match todo s with
  | .access i =>
    match exec i s with
    | .next t => .next (afterAccess t)
    | .fault why => .fault why
    | .refused why => .refused why
  | .call i => exec i s
  | .silent => .next (silentStep s)
  | .stop why => .fault why

/-- Who may act: the engines and the card environment always; a sub-step is checked by its meaning; a host
operation only while no session operation runs, since the session is the sole owner (R8, R361). -/
def mayRun (i : Instr) (s : State) : Bool := i.isEvent || i.isSubStep || decide (s.session = .idle)

/-- Run a decoded operation. -/
def runInstr (i : Instr) (s : State) : Result :=
  if i.wf then
    if mayRun i s then exec i s else .refused .notOwner
  else .refused .illFormed

/-- Decode an operation and run it. -/
def runEncoded (e : Encoded) (s : State) : Result :=
  match decode s.config e with
  | .ok i => runInstr i s
  | .error why => .refused (.undecodable why)

/-- The caller writes a byte of its buffer; it cannot while it is blocked in a session operation (R407). -/
def callerWrites (offset : Nat) (b : Byte) (s : State) : Result :=
  if s.session = .idle then .next (s.setBuffer (writeByte s.buffer offset b)) else .refused .bufferBorrowed

/-- Run one slot of the agenda. -/
def runSlot (slot : Slot) (s : State) : Result :=
  match slot with
  | .turn => takeTurn s
  | .op e => runEncoded e s
  | .clock c => .next (s.setClock c)
  | .gpio g => .next (s.setGpio g)
  | .callerWrite offset b => callerWrites offset b s

/-- Put an encoded operation before everything else on the agenda. -/
def State.pushOperation (s : State) (e : Encoded) : State := s.setAgenda (.op e :: s.agenda)

end Sys2Proof.Machine
end

