-- ==== Sys2Proof/Machine/Step.lean ====
section
/-! DEFINITION. One step of the machine. -/

namespace Sys2Proof.Machine

/-- One step: the first slot of the agenda, or, with nothing on it, a turn of the sequencer: the environment may stay
silent for ever (R14). Log entries 5 and 21. -/
def step (s : State) : Host.Outcome State Fault Refusal :=
  match s.agenda with
  | [] => takeTurn s
  | slot :: rest => runSlot slot (s.setAgenda rest)

/-- The state with an instruction of the opcode table placed where the next step takes its operation: first on the
agenda (log entries 5 and 8). -/
def State.withFetchWord (s : State) (nbits w : Nat) : State := s.pushOperation (tableEncoded nbits w)

end Sys2Proof.Machine
end

