-- ==== Sys2Proof/Safety.lean ====
section
/-! DEFINITION. What counts as a sound configuration, a sound state and a run, in the terms claims use: which configurations
the spec admits, when a session operation may start, the invariant of the machine, and the state after a complete
PROBE. -/

namespace Sys2Proof.Machine

/-! ## Configurations (R17, R118) -/

/-- Two fields have no bit in common. -/
abbrev Apart (f g : Field) : Prop := f.lo + f.width ≤ g.lo ∨ g.lo + g.width ≤ f.lo

/-- The named fields of one register: inside the word, and disjoint (R118). -/
structure Fits (fs : List Field) : Prop where
  inside : ∀ f ∈ fs, f.lo + f.width ≤ 32
  apart : fs.Pairwise Apart

/-- A configuration the spec admits: R89 and R20 for REG_OFFSETS, R118 for LAYOUT, section 6 of 92_eei_decisions.md for the
FIFO, and values that fit their fields. -/
structure Admissible (c : Config) : Prop where
  /-- The registers stand in the source's order (R20, R94). -/
  offsetsRise : c.offsets.toList.Pairwise (· < ·)
  /-- Every offset is a multiple of 4. -/
  offsetsAligned : ∀ o ∈ c.offsets.toList, o % 4 = 0
  con : Fits c.layout.con.fields
  pre : Fits [c.layout.pre]
  ccon : Fits c.layout.ccon.fields
  csta : Fits c.layout.csta.fields
  dtimer : Fits [c.layout.dtimer]
  bsize : Fits [c.layout.bsize]
  dcon : Fits c.layout.dcon.fields
  dsta : Fits c.layout.dsta.fields
  fsta : Fits c.layout.fsta.fields
  /-- The values of DATMODE and DATASIZE fit their fields. -/
  dataValues : c.layout.dcon.datmodeValue.clip c.layout.dcon.rxStart = c.layout.dcon.rxStart ∧
    c.layout.dcon.datmodeValue.clip c.layout.dcon.txStart = c.layout.dcon.txStart ∧
    c.layout.dcon.datasize.clip c.layout.dcon.wordSize = c.layout.dcon.wordSize
  /-- COUNT is wide enough to hold FIFO_DEPTH. -/
  count : c.fifoDepth < 2 ^ c.layout.fsta.count.width
  /-- TX_READY_LEVEL + 4 <= FIFO_DEPTH. -/
  ready : c.txReadyLevel + 4 ≤ c.fifoDepth
  /-- The values of software reset fit their fields. -/
  resetValues : (Regs.afterReset c.reset).clip c.layout = Regs.afterReset c.reset

/-! ## Runs -/

/-- A session operation other than PROBE may start (R280, R346). -/
def Ready (s : State) : Prop := s.session = .idle ∧ s.pc = .idle ∧ s.ctrl.isSome = true

/-- The engine cannot refuse a write of PRE (R155): no command and no data phase runs. -/
def EnginesQuiet (s : State) : Prop := s.ce = .idle ∧ ∀ dir left, s.de ≠ .active dir left

/-- The register accesses of level L0, under their own names and by control-word form (R6). -/
def hostAccess (i : Instr) : Bool :=
  match i with
  | .execute _ _ | .issue _ _ | .readResponse _ | .transfer _ | .waitCompletion | .probe _ | .setClock _
  | .cardPresent | .writeProtected => false
  | i => !i.isEvent

/-- Perform operations one after the other, stopping at the first that does not go on. -/
def performAll : List Instr → State → Result
  | [], s => .next s
  | i :: rest, s =>
    match exec i s with
    | .next t => performAll rest t
    | .fault why => .fault why
    | .refused why => .refused why

/-- Read the data register `k` times: the words read, in order, and the state after. -/
def popWords : Nat → State → Option (List Word × State)
  | 0, s => some ([], s)
  | k + 1, s =>
    match exec .rdDat s with
    | .next t => (popWords k t).map fun r => (t.hostWord :: r.1, r.2)
    | _ => none

/-- The three latched flags of CSTA are as one command leaves them: RSPFIN and CMDTIMEOUT not both, and neither while
the command is in the engine (R214). -/
def oneAnswer (s : State) : Prop :=
  (s.regs.csta.rspfin = true → s.regs.csta.cmdtimeout = false) ∧
    (s.ce ≠ .idle → s.regs.csta.rspfin = false ∧ s.regs.csta.cmdtimeout = false)

/-- No error flag of DSTA is set. -/
def noErrorFlag (f : DstaFlags) : Prop :=
  f.datatimeout = false ∧ f.rxcrcfail = false ∧ f.crcfail = false ∧ f.fifofail = false

/-- The set of error flags of DSTA that are set. -/
def errorFlags (f : DstaFlags) : ErrorSet := ⟨f.fifofail, f.crcfail, f.rxcrcfail, f.datatimeout⟩

/-- The phases of R335, one pair per row of its table. -/
def phaseRow (before after : Phase) : Prop :=
  match before, after with
  | .idle, .commandPhase => True
  | .idle, .failed .configurationError => True
  | .commandPhase, .failed .commandTimeout => True
  | .commandPhase, .completionPhase => True
  | .commandPhase, .dataPhase => True
  | .dataPhase, .failed (.dataError _) => True
  | .dataPhase, .failed .dataTimeout => True
  | .dataPhase, .completionPhase => True
  | .completionPhase, .failed .dataTimeout => True
  | .completionPhase, .idle => True
  | .failed _, .idle => True
  | _, _ => False

/-! ## The invariant -/

/-- The byte count of the descriptor of an EXECUTE, 0 without one. -/
def ExecRun.total (x : ExecRun) : Nat :=
  match x.data with
  | none => 0
  | some d => totalBytes d

/-- The descriptor, if there is one, passed EXECUTE's validation (R281, R282). -/
def ExecRun.validated (x : ExecRun) (c : Config) : Prop :=
  ∀ d, x.data = some d → d.blockCount ≤ Config.blknumMax ∧ contract c x.cmd d = true

/-- Where EXECUTE stands fits the phase (R335), the accounting of the transfer (R303) and the response captured so far: none
before READ_RESPONSE has read (R281, R283). -/
def ExecRun.sound (x : ExecRun) (c : Config) (pc : Phase) : Prop :=
  match x.pos with
  | .callIssue | .clearCsta | .clearDsta | .clearFsta | .writeCarg | .writeCcon | .pollCsta | .clearConsumed
  | .callReadResponse | .readRsp0 =>
    pc = .commandPhase ∧ x.validated c ∧ x.rem = x.total ∧ x.resp = .none
  | .readRsp1 | .readRsp2 | .readRsp3 => pc = .commandPhase ∧ x.validated c ∧ x.rem = x.total
  | .writeBsize | .writeDcon =>
    pc = .commandPhase ∧ x.validated c ∧ x.rem = x.total ∧ x.resp = .none ∧ x.data.isSome = true
  | .callTransfer => pc = .dataPhase ∧ x.validated c ∧ x.rem = x.total ∧ x.data.isSome = true
  | .readDsta | .readFsta | .moveWord =>
    pc = .dataPhase ∧ x.validated c ∧ x.data.isSome = true ∧ x.off + x.rem = x.total ∧ x.off % 4 = 0 ∧ 0 < x.rem
  | .callWait | .pollDsta | .clearDone | .dataOff =>
    pc = .completionPhase ∧ x.validated c ∧ x.data.isSome = true ∧ x.rem = 0
  | .finish => pc = .completionPhase ∧ x.validated c ∧ x.rem = 0
  | .clearDcon => (∃ reason, pc = .failed reason) ∧ x.data.isSome = true
  | .returnFailure => ∃ reason, pc = .failed reason

/-- The running operation fits the phase; only EXECUTE leaves Idle (R62), and only PROBE runs without a
ControllerState (R346). -/
def State.sessionSound (s : State) : Prop :=
  match s.session with
  | .idle => s.pc = .idle
  | .execute x => s.ctrl.isSome = true ∧ x.sound s.config s.pc
  | .probe _ _ _ _ => s.pc = .idle
  | .setClock divider _ => s.pc = .idle ∧ s.ctrl.isSome = true ∧ divider ≤ s.config.layout.pre.max

/-- DCON holds an arming word of the engine's direction exactly while the data engine is not idle (R236, R352). -/
def dconSound (l : Config.DconLayout) (dcon : DconFields) (de : DataEngine) : Prop :=
  match de with
  | .idle => dcon = DconFields.zero
  | .armed dir total => 0 < total ∧ ∃ blknum widebus, blknum ≠ 0#11 ∧ dcon = armingFields l dir blknum widebus
  | .active dir _ => ∃ blknum widebus, blknum ≠ 0#11 ∧ dcon = armingFields l dir blknum widebus
  | .done | .err => ∃ dir blknum widebus, blknum ≠ 0#11 ∧ dcon = armingFields l dir blknum widebus

/-- The response registers hold nothing, one word, or four (R27, R211, R212). -/
def Regs.responsesSound (r : Regs) : Prop :=
  (r.rsp1.isSome = r.rsp2.isSome) ∧ (r.rsp2.isSome = r.rsp3.isSome) ∧ (r.rsp1.isSome = true → r.rsp0.isSome = true)

/-- The invariant of the machine. -/
structure Inv (s : State) : Prop where
  /-- The configuration is one the spec admits (R118). -/
  configAdmissible : Admissible s.config
  /-- Every register value fits its field. -/
  regsFit : s.regs.clip s.config.layout = s.regs
  /-- `len(fifo) <= FIFO_DEPTH` (R40). -/
  fifoFits : s.fifo.length ≤ s.config.fifoDepth
  /-- The buffer keeps its canonical form. -/
  bufferWf : s.buffer.wf = true
  /-- IMSK is 0, the one word that may be written (R34, R182), or what software reset left. -/
  imskSound : s.regs.imsk = 0#32 ∨ s.regs.imsk = s.config.reset.imsk
  /-- DCON and the data engine agree. -/
  dconSound : dconSound s.config.layout.dcon s.regs.dcon s.de
  /-- The response registers hold the words of one response or none. -/
  responsesSound : s.regs.responsesSound
  /-- The phase and the working registers fit the running operation. -/
  sessionSound : s.sessionSound

/-! ## The state after PROBE -/

/-- What R385 says of the block, the phase and ControllerState after a complete PROBE under a configuration: what PROBE
writes, and what software reset leaves in the rest (log entries 33 and 34). -/
structure AfterProbe (c : Config) (binding : Binding) (base : Nat) (s : State) : Prop where
  config : s.config = c
  regs : s.regs = { Regs.afterReset c.reset with
    clktype := c.clktypeInit
    dtimer := c.layout.dtimer.clip c.dtimerInit
    bsize := c.layout.bsize.clip c.bsizeInit
    imsk := 0#32 }
  fifo : s.fifo = []
  ce : s.ce = .idle
  de : s.de = .idle
  pc : s.pc = .idle
  ctrl : s.ctrl = some ⟨⟨binding.clockName⟩, none, binding.cdRef, binding.wpRef, base⟩
  session : s.session = .idle
  result : s.result = some (.probe .ok)

end Sys2Proof.Machine
end

