-- ==== Sys2Proof/Certificates/Slice0/Obligations.lean ====
section
/-! DEFINITION. The statements for the provers. Each docstring names the rules of the spec it formalises; a statement about
a value the model chose says so. LAYOUT, REG_OFFSETS, the reset values and the parameters are those of the configuration in
the state (R9 to R11, R17): a statement holds for every configuration, or for every one R118 admits (`Admissible`), and
the numbers of the default layout stand in clauses that name `Config.reference`. -/

open Sys2Proof Sys2Proof.Machine

/-! ## Encoding -/

/-- Words written out from the tables of R110 to R114 and from the spec's own tables of control words decode to the
operations they stand for. -/
def Obligations.SpelledOutWordsDecode : Prop :=
  decode Config.reference (.access .read 32 0x14 0#32) = .ok .rdRsp0 ∧
  decode Config.reference (.access .write 32 0x2C 0x008B6001#32) = .ok (.wrDcon 0x008B6001#32) ∧
  decode Config.reference (.access .read 16 0x0C 0#32) = .error .accessWidth ∧
  decode Config.reference (.access .read 32 0x44 0#32) = .error .noRegister ∧
  decode Config.reference (.access .read 32 0x0E 0#32) = .error .misaligned ∧
  decode Config.reference (.cn 0x00000100#32) = .ok .conReset ∧
  decode Config.reference (.cn 0x00000022#32) = .ok (.conCfg true true) ∧
  decode Config.reference (.cc 0x00000140#32) = .ok (.cmdNorsp 0#6) ∧
  decode Config.reference (.cc 0x00000351#32) = .ok (.cmdShort 17#6) ∧
  decode Config.reference (.cc 0x0000077F#32) = .ok (.cmdLong 63#6) ∧
  decode Config.reference (.cc 0x00000051#32) = .ok (.cconStore 17#6 true false false) ∧
  decode Config.reference (.cc 0x00000540#32) = .error .reservedCommandWord ∧
  decode Config.reference (.cc 0x00000B40#32) = .error .reservedCommandWord ∧
  decode Config.reference (.dc 0x008B67FF#32) = .ok (.dataRx 2047#11 true) ∧
  decode Config.reference (.dc 0x00927001#32) = .ok (.dataTx 1#11 false) ∧
  decode Config.reference (.dc 0x00000000#32) = .ok .dataOff ∧
  decode Config.reference (.dc 0x009A7001#32) = .error .reservedDataWord ∧
  decode Config.reference (.req 8#4 .none) = .ok .writeProtected ∧
  decode Config.reference (.ev 5#4 (.count 3)) = .ok (.evTxBytes 3)

/-- Under every admissible configuration, every operation, with every operand at every value its fields admit, is what the
decoder reads from its encoded form: no bit of an encoding is dropped. -/
def Obligations.DecodeOfEncodeIsTheOperation : Prop :=
  ∀ (c : Config) (i : Instr), Admissible c → decode c (encode c i) = .ok i

/-- Under every admissible configuration, an arming command-control word, a data-control word and a register write have one
reading each: encoding what the decoder read gives the word back (R112 with R130, R114 with R131, R110). -/
def Obligations.AcceptedWordsHaveOneReading : Prop :=
  ∀ c : Config, Admissible c →
    (∀ (w : Word) (i : Instr), bitAt w c.layout.ccon.cmdstart = true → decode c (.cc w) = .ok i → encode c i = .cc w) ∧
    (∀ (w : Word) (i : Instr), decode c (.dc w) = .ok i → encode c i = .dc w) ∧
    (∀ (width offset : Nat) (w : Word) (i : Instr),
      decode c (.access .write width offset w) = .ok i → encode c i = .access .write width offset w)

/-- R130: the reserved command-control words are refused, and no command assembles to one; in the default layout the
unnamed bits are bit 7 and bits 31 to 11. -/
def Obligations.ReservedCommandWordsAreRefused : Prop :=
  (∀ (w : Word) (s : State), let l := s.config.layout.ccon
    bitAt w l.cmdstart = true →
    ((bitAt w l.longrsp = true ∧ bitAt w l.waitrsp = false) ∨ bitAt w l.senderhost = false ∨
      w &&& ~~~maskOf l.fields ≠ 0#32) →
    exec (.wrCcon w) s = .refused .reservedCommandWord ∧ decode s.config (.cc w) = .error .reservedCommandWord) ∧
  (∀ (c : Config) (cmd : Command), Admissible c → let l := c.layout.ccon
    bitAt (commandWord l cmd) l.cmdstart = true ∧ bitAt (commandWord l cmd) l.senderhost = true ∧
    (bitAt (commandWord l cmd) l.longrsp = true → bitAt (commandWord l cmd) l.waitrsp = true) ∧
    commandWord l cmd &&& ~~~maskOf l.fields = 0#32) ∧
  Config.reference.layout.ccon = ⟨0, 6, 8, 9, 10⟩ ∧
  (∀ w : Word, w &&& ~~~maskOf Config.reference.layout.ccon.fields ≠ 0#32 ↔
    bitAt w 7 = true ∨ ∃ n, 11 ≤ n ∧ n ≤ 31 ∧ bitAt w n = true)

/-- R131: every non-zero data-control word that matches neither arming form is refused, the listed cases among them, and
so is an arming word with no block (R234); in the default layout the mask is 0xFFFEF800 and the two forms are 0x008A6000
and 0x00927000. -/
def Obligations.ReservedDataWordsAreRefused : Prop :=
  (∀ (w : Word) (s : State), let l := s.config.layout.dcon
    w ≠ 0#32 → w &&& dconFormMask l ≠ dataFormWord l .rx 0#11 false →
    w &&& dconFormMask l ≠ dataFormWord l .tx 0#11 false →
    exec (.wrDcon w) s = .refused .reservedDataWord ∧ decode s.config (.dc w) = .error .reservedDataWord) ∧
  (∀ (w : Word) (s : State), Admissible s.config → let l := s.config.layout.dcon
    w ≠ 0#32 →
    (bitAt w l.datstart = false ∨ (l.modeOf w ≠ l.rxStart ∧ l.modeOf w ≠ l.txStart) ∨
      l.datasize.get w ≠ l.wordSize ∨ bitAt w l.blockmode = false ∨
      (bitAt w l.racmd = true ∧ bitAt w l.tarsp = true) ∨ (l.modeOf w ≠ l.txStart ∧ bitAt w l.tarsp = true) ∨
      (l.modeOf w ≠ l.rxStart ∧ bitAt w l.racmd = true) ∨ w &&& ~~~maskOf l.fields ≠ 0#32) →
    exec (.wrDcon w) s = .refused .reservedDataWord) ∧
  (∀ (w : Word) (dir : Direction) (s : State), Admissible s.config → let l := s.config.layout.dcon
    w &&& dconFormMask l = dataFormWord l dir 0#11 false → blknumOf l w = 0#11 →
    exec (.wrDcon w) s = .refused .dataArmRefused) ∧
  Config.reference.layout.dcon = ⟨0, ⟨12, 2⟩, ⟨0, 0⟩, 14, 16, 17, 19, 20, ⟨22, 2⟩, 2#32, 3#32, 2#32⟩ ∧
  dconFormMask Config.reference.layout.dcon = 0xFFFEF800#32 ∧
  dataFormWord Config.reference.layout.dcon .rx 0#11 false = 0x008A6000#32 ∧
  dataFormWord Config.reference.layout.dcon .tx 0#11 false = 0x00927000#32

/-- R88 and R89 for host accesses: a 32-bit access at the offset of a register is that register's operation; of any other
width, or at any other offset, the step that meets it refuses it. The default offsets are the multiples of 4 from 0x00 to
0x40. -/
def Obligations.OnlyWordAccessesAtRegisterOffsets : Prop :=
  (∀ (c : Config) (dir : Dir) (r : Reg) (v : Word), Admissible c →
    decode c (.access dir 32 (r.offset c.offsets) v) = .ok (decodeRegister dir r v)) ∧
  (∀ (dir : Dir) (width offset : Nat) (v : Word) (rest : List Slot) (s : State),
    (width ≠ 32 ∨ ∀ r : Reg, r.offset s.config.offsets ≠ offset) →
    s.agenda = .op (.access dir width offset v) :: rest → ∃ why, step s = .refused (.undecodable why)) ∧
  (∀ offset : Nat, (∃ r : Reg, r.offset Config.reference.offsets = offset) ↔ offset % 4 = 0 ∧ offset ≤ 0x40)

/-- A write of CON, CCON or DCON is the control-word form its word decodes to (R111 and R152, R112 and R159, R114 and
R173). -/
def Obligations.ControlWordWritesAreTheirForms : Prop :=
  (∀ (w : Word) (i : Instr) (s : State), decode s.config (.cn w) = .ok i → exec (.wrCon w) s = exec i s) ∧
  (∀ (w : Word) (i : Instr) (s : State), decode s.config (.cc w) = .ok i → exec (.wrCcon w) s = exec i s) ∧
  (∀ (w : Word) (i : Instr) (s : State), decode s.config (.dc w) = .ok i → exec (.wrDcon w) s = exec i s)

/-- R120, R121: the command-control word of a command and the data-control word of a descriptor that passed the block-count
check: bit by bit in the default layout, and, in every admissible one, the operations they decode to. -/
def Obligations.ControlWordAssembly : Prop :=
  (∀ (cmd : Command) (n : Nat), n < 32 → bitAt (commandWord Config.reference.layout.ccon cmd) n =
    if n < 6 then cmd.index.getLsbD n
    else if n = 6 ∨ n = 8 then true
    else if n = 9 then decide (cmd.kind ≠ .none)
    else if n = 10 then decide (cmd.kind = .long)
    else false) ∧
  (∀ (c : Config) (cmd : Command), Admissible c → decode c (.cc (commandWord c.layout.ccon cmd)) =
    .ok (match cmd.kind with
      | .none => .cmdNorsp cmd.index
      | .short => .cmdShort cmd.index
      | .long => .cmdLong cmd.index)) ∧
  (∀ d : Descriptor, d.blockCount ≤ 2047 → ∀ n, n < 32 →
    bitAt (dataControlWord Config.reference.layout.dcon d) n =
      if n < 11 then d.blockCount.testBit n
      else if n = 17 ∨ n = 23 ∨ n = 14 then true
      else if n = 16 then decide (d.busWidth = 4)
      else if n = 19 then decide (d.direction = .rx)
      else if n = 13 then true
      else if n = 20 ∨ n = 12 then decide (d.direction = .tx)
      else false) ∧
  (∀ (c : Config) (d : Descriptor), Admissible c → d.blockCount ≤ 2047 →
    decode c (.dc (dataControlWord c.layout.dcon d)) =
      .ok (match d.direction with
        | .rx => .dataRx (BitVec.ofNat 11 d.blockCount) (decide (d.busWidth = 4))
        | .tx => .dataTx (BitVec.ofNat 11 d.blockCount) (decide (d.busWidth = 4))))

/-! ## Steps -/

/-- A step runs the decoded operation: when the next slot of the agenda holds an encoded operation that decodes to a
well-formed one which may run now, the step is its meaning on the state without that slot; and, under the default layout,
a word of the opcode table placed by `withFetchWord` runs as the next step. That the agenda is what a step takes its
operation from is the model's choice (log entry 5), and so is how a word of the opcode table is read (log entry 8): no
rule says it; the operations are those of R6, taken one at a time as R7 and R100 say. -/
def Obligations.StepRunsTheDecodedOperation : Prop :=
  (∀ (s : State) (e : Encoded) (rest : List Slot) (i : Instr), s.agenda = .op e :: rest → decode s.config e = .ok i →
    i.wf = true → mayRun i s = true → step s = exec i (s.setAgenda rest)) ∧
  (∀ (s : State) (nbits w : Nat) (i : Instr), s.config = Config.reference → decodeTableWord nbits w = some i →
    i.wf = true → mayRun i s = true → step (s.withFetchWord nbits w) = exec i s)

/-- A turn of the sequencer, asked for by the agenda or taken because the agenda is empty: its register access is the
operation of level L0, performed by its meaning, after which the sequencer goes on; its call of a sub-step is the
sub-step's meaning (R6, R100). That an empty agenda means a turn of the sequencer, and that one turn is one access or one
call, is the model's choice (log entries 21, 5 and 14); R14 says only that no event is ever forced. -/
def Obligations.TurnPerformsTheSequencersOperation : Prop :=
  ∀ (s u : State), ((s.agenda = [] ∧ u = s) ∨ (∃ rest, s.agenda = .turn :: rest ∧ u = s.setAgenda rest)) →
    (∀ i t, todo u = .access i → exec i u = .next t → step s = .next (afterAccess t)) ∧
    (∀ i why, todo u = .access i → exec i u = .refused why → step s = .refused why) ∧
    (∀ i, todo u = .call i → step s = exec i u) ∧
    (todo u = .silent → step s = .next (silentStep u))

/-- R8, R280: while a session operation runs, a step refuses every other host operation, and no session operation starts;
the sub-steps are "not callable on their own by a caller": with no EXECUTE running they are refused. -/
def Obligations.TheSessionIsTheSoleOwner : Prop :=
  (∀ (s : State) (e : Encoded) (rest : List Slot) (i : Instr), s.agenda = .op e :: rest →
    decode s.config e = .ok i → i.wf = true → i.isEvent = false → i.isSubStep = false → s.session ≠ .idle →
    step s = .refused .notOwner) ∧
  (∀ (s : State) (cmd : Command) (data : Option Descriptor) (binding : Binding) (target : Nat),
    s.session ≠ .idle ∨ s.pc ≠ .idle →
    exec (.execute cmd data) s = .refused .sequencerBusy ∧ exec (.probe binding) s = .refused .sequencerBusy ∧
    exec (.setClock target) s = .refused .sequencerBusy ∧ exec .cardPresent s = .refused .sequencerBusy ∧
    exec .writeProtected s = .refused .sequencerBusy) ∧
  (∀ (cmd : Command) (data : Option Descriptor) (kind : RspKind) (d : Descriptor) (s : State), s.session = .idle →
    exec (.issue cmd data) s = .refused .subStepNotCallable ∧
    exec (.readResponse kind) s = .refused .subStepNotCallable ∧
    exec (.transfer d) s = .refused .subStepNotCallable ∧ exec .waitCompletion s = .refused .subStepNotCallable)

/-! ## Reads of registers -/

/-- R151, R154, R158, R168, R170, R172: a read of CON, PRE, CCON, DTIMER, BSIZE or DCON returns the stored fields and changes
nothing else; the action bits of CON read 0, CMDSTART, DATSTART and every unnamed bit are drawn. -/
def Obligations.ConfigurationRegistersRead : Prop :=
  ∀ s : State, Admissible s.config → s.regs.clip s.config.layout = s.regs →
    let l := s.config.layout
    let read (i : Instr) (v : Word) := exec i s = .next ((s.setHostWord v).setDraws (s.draws + 1))
    let drawn (v mask : Word) := v &&& ~~~mask = Config.freeWord s.draws &&& ~~~mask
    (∃ v, read .rdCon v ∧ bitAt v l.con.clktype = s.regs.clktype ∧ bitAt v l.con.sdreset = false ∧
      bitAt v l.con.fiforeset = false ∧ drawn v (maskOf l.con.fields)) ∧
    (∃ v, read .rdPre v ∧ l.pre.get v = s.regs.div ∧ drawn v l.pre.mask) ∧
    (∃ v, read .rdDtimer v ∧ l.dtimer.get v = s.regs.dtimer ∧ drawn v l.dtimer.mask) ∧
    (∃ v, read .rdBsize v ∧ l.bsize.get v = s.regs.bsize ∧ drawn v l.bsize.mask) ∧
    (∃ v, read .rdCcon v ∧ indexOf l.ccon v = s.regs.ccon.index ∧
      bitAt v l.ccon.senderhost = s.regs.ccon.senderhost ∧ bitAt v l.ccon.waitrsp = s.regs.ccon.waitrsp ∧
      bitAt v l.ccon.longrsp = s.regs.ccon.longrsp ∧ drawn v (maskOf l.ccon.stored)) ∧
    (∃ v, read .rdDcon v ∧ blknumOf l.dcon v = s.regs.dcon.blknum ∧ l.dcon.modeOf v = s.regs.dcon.datmode ∧
      bitAt v l.dcon.widebus = s.regs.dcon.widebus ∧ bitAt v l.dcon.blockmode = s.regs.dcon.blockmode ∧
      bitAt v l.dcon.racmd = s.regs.dcon.racmd ∧ bitAt v l.dcon.tarsp = s.regs.dcon.tarsp ∧
      l.dcon.datasize.get v = s.regs.dcon.datasize ∧ drawn v (maskOf l.dcon.stored))

/-- R160, R177, R179, R175: a read of CSTA, DSTA or FSTA returns the flags of that moment, every other bit drawn, and
clears nothing; a read of DCNT returns any word. -/
def Obligations.StatusRegistersRead : Prop :=
  ∀ s : State, Admissible s.config →
    let l := s.config.layout
    let read (i : Instr) (v : Word) := exec i s = .next ((s.setHostWord v).setDraws (s.draws + 1))
    let drawn (v mask : Word) := v &&& ~~~mask = Config.freeWord s.draws &&& ~~~mask
    (∃ v, read .rdCsta v ∧ bitAt v l.csta.cmdon = decide (s.ce ≠ .idle) ∧ bitAt v l.csta.rspfin = s.regs.csta.rspfin ∧
      bitAt v l.csta.cmdtimeout = s.regs.csta.cmdtimeout ∧ bitAt v l.csta.cmdsent = s.regs.csta.cmdsent ∧
      drawn v (maskOf l.csta.fields)) ∧
    (∃ v, read .rdDsta v ∧ bitAt v l.dsta.xferfinish = s.regs.dsta.xferfinish ∧
      bitAt v l.dsta.datatimeout = s.regs.dsta.datatimeout ∧ bitAt v l.dsta.rxcrcfail = s.regs.dsta.rxcrcfail ∧
      bitAt v l.dsta.crcfail = s.regs.dsta.crcfail ∧ bitAt v l.dsta.fifofail = s.regs.dsta.fifofail ∧
      drawn v (maskOf l.dsta.fields)) ∧
    (∃ v, read .rdFsta v ∧ (s.fifo.length ≤ s.config.fifoDepth → countOf l.fsta v = s.fifo.length) ∧
      bitAt v l.fsta.tfhalf = decide (s.fifo.length ≤ s.config.txReadyLevel) ∧ drawn v (maskOf l.fsta.fields)) ∧
    read .rdDcnt (Config.freeWord s.draws)

/-- R156, R181, R162 to R166: CARG and IMSK read as stored; a response register reads as the word it holds, with no effect
beyond the read, or as any word if it holds none. -/
def Obligations.WordRegistersRead : Prop :=
  ∀ s : State,
    exec .rdCarg s = .next (s.setHostWord s.regs.carg) ∧ exec .rdImsk s = .next (s.setHostWord s.regs.imsk) ∧
    (∀ w, (s.regs.rsp0 = some w → exec .rdRsp0 s = .next (s.setHostWord w)) ∧
      (s.regs.rsp1 = some w → exec .rdRsp1 s = .next (s.setHostWord w)) ∧
      (s.regs.rsp2 = some w → exec .rdRsp2 s = .next (s.setHostWord w)) ∧
      (s.regs.rsp3 = some w → exec .rdRsp3 s = .next (s.setHostWord w))) ∧
    (∀ i, (i = .rdRsp0 ∧ s.regs.rsp0 = none) ∨ (i = .rdRsp1 ∧ s.regs.rsp1 = none) ∨
        (i = .rdRsp2 ∧ s.regs.rsp2 = none) ∨ (i = .rdRsp3 ∧ s.regs.rsp3 = none) →
      exec i s = .next ((s.setHostWord (Config.freeWord s.draws)).setDraws (s.draws + 1)))

/-! ## Writes of registers -/

/-- R157, R169, R155, R171, R182: CARG, DTIMER, PRE and BSIZE store the named bits of the word and change nothing else; PRE is
refused while a command or a data phase runs, BSIZE while the data engine is armed or active. IMSK stores the zero word
and refuses any other. -/
def Obligations.OperandRegistersStore : Prop :=
  ∀ (v : Word) (s : State),
    exec (.wrCarg v) s = .next (s.setRegs { s.regs with carg := v }) ∧
    exec (.wrDtimer v) s = .next (s.setRegs { s.regs with dtimer := s.config.layout.dtimer.get v }) ∧
    (EnginesQuiet s → exec (.wrPre v) s = .next (s.setRegs { s.regs with div := s.config.layout.pre.get v })) ∧
    (¬ EnginesQuiet s → exec (.wrPre v) s = .refused .prescalerInUse) ∧
    ((s.de = .idle ∨ s.de = .done ∨ s.de = .err) →
      exec (.wrBsize v) s = .next (s.setRegs { s.regs with bsize := s.config.layout.bsize.get v })) ∧
    (∀ dir n, (s.de = .armed dir n ∨ s.de = .active dir n) → exec (.wrBsize v) s = .refused .blockSizeInUse) ∧
    (v = 0#32 → exec (.wrImsk v) s = .next (s.setRegs { s.regs with imsk := 0#32 })) ∧
    (v ≠ 0#32 → exec (.wrImsk v) s = .refused .interruptMask)

/-- R161, R178: a write of CSTA or DSTA clears exactly the flags whose written bit is 1 and changes nothing else: not the
engines, not the FIFO, not the live bit. -/
def Obligations.StatusWritesClearWrittenFlags : Prop :=
  ∀ (v : Word) (s : State),
    (∃ f, exec (.wrCsta v) s = .next (s.setRegs { s.regs with csta := f }) ∧
      f.rspfin = (if bitAt v s.config.layout.csta.rspfin then false else s.regs.csta.rspfin) ∧
      f.cmdtimeout = (if bitAt v s.config.layout.csta.cmdtimeout then false else s.regs.csta.cmdtimeout) ∧
      f.cmdsent = (if bitAt v s.config.layout.csta.cmdsent then false else s.regs.csta.cmdsent)) ∧
    (∃ f, exec (.wrDsta v) s = .next (s.setRegs { s.regs with dsta := f }) ∧
      f.xferfinish = (if bitAt v s.config.layout.dsta.xferfinish then false else s.regs.dsta.xferfinish) ∧
      f.datatimeout = (if bitAt v s.config.layout.dsta.datatimeout then false else s.regs.dsta.datatimeout) ∧
      f.rxcrcfail = (if bitAt v s.config.layout.dsta.rxcrcfail then false else s.regs.dsta.rxcrcfail) ∧
      f.crcfail = (if bitAt v s.config.layout.dsta.crcfail then false else s.regs.dsta.crcfail) ∧
      f.fifofail = (if bitAt v s.config.layout.dsta.fifofail then false else s.regs.dsta.fifofail))

/-- The idempotence the source asks for (R92, vector S4): a status clear issued twice leaves what it leaves once, and the
all-ones clears leave no latched flag set, with the FIFO and both engines as they were. -/
def Obligations.StatusClearsAreIdempotent : Prop :=
  (∀ (v : Word) (s t : State), exec (.wrCsta v) s = .next t → exec (.wrCsta v) t = .next t) ∧
  (∀ (v : Word) (s t : State), exec (.wrDsta v) s = .next t → exec (.wrDsta v) t = .next t) ∧
  (∀ s : State, Admissible s.config →
    performAll [.wrCsta 0xFFFFFFFF#32, .wrDsta 0xFFFFFFFF#32, .wrFsta 0xFFFFFFFF#32] s =
      .next (s.setRegs { s.regs with csta := ⟨false, false, false⟩, dsta := ⟨false, false, false, false, false⟩ }))

/-- R167, R176, R180: writes of the response registers, of DCNT and of FSTA, at the keys the rules give, change nothing. -/
def Obligations.ReadOnlyRegistersIgnoreWrites : Prop :=
  ∀ (v : Word) (s : State),
    (encode Config.reference (.wrRsp0 v) = .access .write 32 0x14 v ∧
      encode Config.reference (.wrRsp1 v) = .access .write 32 0x18 v ∧
      encode Config.reference (.wrRsp2 v) = .access .write 32 0x1C v ∧
      encode Config.reference (.wrRsp3 v) = .access .write 32 0x20 v ∧
      encode Config.reference (.wrDcnt v) = .access .write 32 0x30 v ∧
      encode Config.reference (.wrFsta v) = .access .write 32 0x38 v) ∧
    exec (.wrRsp0 v) s = .next s ∧ exec (.wrRsp1 v) s = .next s ∧ exec (.wrRsp2 v) s = .next s ∧
    exec (.wrRsp3 v) s = .next s ∧ exec (.wrDcnt v) s = .next s ∧ exec (.wrFsta v) s = .next s

/-- R153, R381, R17: the software reset, by a word with SDRESET set or by its form, in every state: the flags and DCON zero,
the response registers without value, the FIFO empty, both engines idle, every other field at its configured reset value,
which is zero by default; nothing else changed. -/
def Obligations.SoftwareResetClearsTheBlock : Prop :=
  ∀ (v : Word) (s : State), bitAt v s.config.layout.con.sdreset = true →
    ∃ r : Regs, exec (.wrCon v) s = .next ((((s.setRegs r).setFifo []).setCe .idle).setDe .idle) ∧
      exec .conReset s = .next ((((s.setRegs r).setFifo []).setCe .idle).setDe .idle) ∧
      r.csta = ⟨false, false, false⟩ ∧ r.rsp0 = none ∧ r.rsp1 = none ∧ r.rsp2 = none ∧ r.rsp3 = none ∧
      r.dcon = ⟨0#11, 0#32, false, false, false, false, 0#32⟩ ∧
      r.dsta = ⟨false, false, false, false, false⟩ ∧
      r.clktype = s.config.reset.clktype ∧ r.div = s.config.reset.div ∧ r.carg = s.config.reset.carg ∧
      r.ccon = ⟨s.config.reset.index, s.config.reset.senderhost, s.config.reset.waitrsp, s.config.reset.longrsp⟩ ∧
      r.dtimer = s.config.reset.dtimer ∧ r.bsize = s.config.reset.bsize ∧ r.imsk = s.config.reset.imsk ∧
      (s.config.reset = Config.reference.reset → r.clktype = false ∧ r.div = 0#32 ∧ r.carg = 0#32 ∧
        r.ccon = ⟨0#6, false, false, false⟩ ∧ r.dtimer = 0#32 ∧ r.bsize = 0#32 ∧ r.imsk = 0#32)

/-- R152, R382: with SDRESET zero, by the word or by its form, CLKTYPE is stored and FIFORESET empties the FIFO; nothing else
changes. FIFO reset is refused while a data phase runs. -/
def Obligations.ConfigurationWriteAndFifoReset : Prop :=
  ∀ (v : Word) (s : State), bitAt v s.config.layout.con.sdreset = false →
    let clktype := bitAt v s.config.layout.con.clktype
    let fiforeset := bitAt v s.config.layout.con.fiforeset
    ((fiforeset = false ∨ ∀ dir left, s.de ≠ .active dir left) →
      exec (.wrCon v) s = .next ((s.setRegs { s.regs with clktype := clktype }).setFifo
        (if fiforeset then [] else s.fifo)) ∧
      exec (.conCfg clktype fiforeset) s = .next ((s.setRegs { s.regs with clktype := clktype }).setFifo
        (if fiforeset then [] else s.fifo))) ∧
    (∀ dir left, fiforeset = true → s.de = .active dir left →
      exec (.wrCon v) s = .refused .fifoInUse ∧ exec (.conCfg clktype fiforeset) s = .refused .fifoInUse)

/-! ## The command engine -/

/-- R159, R200 to R205: with the engine idle, the three forms, and a word of one of the three patterns written to CCON, arm
it with the index of the word and the argument CARG holds in that step; the fields of CCON are stored and nothing else
changes. With a command in the engine they are refused. A word without CMDSTART is only stored. -/
def Obligations.CommandFormsArmTheEngine : Prop :=
  (∀ (index : BitVec 6) (s : State),
    (s.ce = .idle →
      exec (.cmdNorsp index) s = .next ((s.setRegs { s.regs with ccon := ⟨index, true, false, false⟩ }).setCe
        (.sending index s.regs.carg false false)) ∧
      exec (.cmdShort index) s = .next ((s.setRegs { s.regs with ccon := ⟨index, true, true, false⟩ }).setCe
        (.sending index s.regs.carg true false)) ∧
      exec (.cmdLong index) s = .next ((s.setRegs { s.regs with ccon := ⟨index, true, true, true⟩ }).setCe
        (.sending index s.regs.carg true true))) ∧
    (s.ce ≠ .idle →
      exec (.cmdNorsp index) s = .refused .commandInFlight ∧ exec (.cmdShort index) s = .refused .commandInFlight ∧
      exec (.cmdLong index) s = .refused .commandInFlight)) ∧
  (∀ (index : BitVec 6) (senderhost waitrsp longrsp : Bool) (s : State),
    exec (.cconStore index senderhost waitrsp longrsp) s =
      .next (s.setRegs { s.regs with ccon := ⟨index, senderhost, waitrsp, longrsp⟩ })) ∧
  (∀ (v : Word) (s : State), let l := s.config.layout.ccon
    bitAt v l.cmdstart = false →
    exec (.wrCcon v) s = .next (s.setRegs { s.regs with
      ccon := ⟨indexOf l v, bitAt v l.senderhost, bitAt v l.waitrsp, bitAt v l.longrsp⟩ })) ∧
  (∀ (v : Word) (s : State), let l := s.config.layout.ccon
    v &&& ~~~maskOf l.fields = 0#32 → bitAt v l.cmdstart = true → bitAt v l.senderhost = true →
    (bitAt v l.longrsp = true → bitAt v l.waitrsp = true) →
    (s.ce = .idle → exec (.wrCcon v) s = .next ((s.setRegs { s.regs with
      ccon := ⟨indexOf l v, true, bitAt v l.waitrsp, bitAt v l.longrsp⟩ }).setCe
        (.sending (indexOf l v) s.regs.carg (bitAt v l.waitrsp) (bitAt v l.longrsp)))) ∧
    (s.ce ≠ .idle → exec (.wrCcon v) s = .refused .commandInFlight))

/-- R210 to R213, with R235. EV.CMD_SENT records the command sampled at arming, sets CMDSENT, moves the engine on and starts an
armed read phase. A response of the awaited length is recorded, fills the response registers (a short one leaves RSP1 to
RSP3 without value), sets RSPFIN, makes the engine idle and starts an armed write phase. EV.RSP_TIMEOUT sets CMDTIMEOUT and
makes the engine idle. Nothing else changes. -/
def Obligations.CommandEngineEvents : Prop :=
  (∀ (index : BitVec 6) (arg : Word) (wait long : Bool) (s : State), s.ce = .sending index arg wait long →
    ∃ de, exec .evCmdSent s = .next ((((s.setCard (s.card ++ [.cmdFrame index arg])).setRegs
        { s.regs with csta := { s.regs.csta with cmdsent := true } }).setCe
          (if wait then .waitRsp long else .idle)).setDe de) ∧
      (∀ total, s.de = .armed .rx total → de = .active .rx total) ∧
      ((∀ total, s.de ≠ .armed .rx total) → de = s.de)) ∧
  (∀ s : State, ∃ de, (∀ total, s.de = .armed .tx total → de = .active .tx total) ∧
    ((∀ total, s.de ≠ .armed .tx total) → de = s.de) ∧
    (∀ w, s.ce = .waitRsp false →
      exec (.evRspShort w) s = .next ((((s.setCard (s.card ++ [.rspFrame [w]])).setRegs
        { s.regs with rsp0 := some w, rsp1 := none, rsp2 := none, rsp3 := none
                      csta := { s.regs.csta with rspfin := true } }).setCe .idle).setDe de)) ∧
    (∀ w0 w1 w2 w3, s.ce = .waitRsp true →
      exec (.evRspLong w0 w1 w2 w3) s = .next ((((s.setCard (s.card ++ [.rspFrame [w0, w1, w2, w3]])).setRegs
        { s.regs with rsp0 := some w0, rsp1 := some w1, rsp2 := some w2, rsp3 := some w3
                      csta := { s.regs.csta with rspfin := true } }).setCe .idle).setDe de))) ∧
  (∀ (long : Bool) (s : State), s.ce = .waitRsp long →
    exec .evRspTimeout s = .next ((s.setRegs { s.regs with csta := { s.regs.csta with cmdtimeout := true } }).setCe .idle))

/-- R214: with both flags clear when a command is armed, no event ever leaves RSPFIN and CMDTIMEOUT both set, and neither is
set while the command is in the engine. -/
def Obligations.OneCommandGetsOneAnswer : Prop :=
  ∀ (i : Instr) (s t : State), i.isEvent = true → oneAnswer s → exec i s = .next t → oneAnswer t

/-- R216: beside the four command events, only arming, software reset and WR.CSTA change the command engine, the response
registers or the latched flags of CSTA. -/
def Obligations.OnlyCommandOperationsTouchTheCommandEngine : Prop :=
  (∀ (i : Instr) (s t : State), exec i s = .next t →
    i ≠ .evCmdSent → (∀ w, i ≠ .evRspShort w) → (∀ a b c d, i ≠ .evRspLong a b c d) → i ≠ .evRspTimeout →
    i ≠ .conReset → (∀ v, bitAt v s.config.layout.con.sdreset = true → i ≠ .wrCon v) → (∀ v, i ≠ .wrCsta v) →
    (∀ n, i ≠ .cmdNorsp n) → (∀ n, i ≠ .cmdShort n) → (∀ n, i ≠ .cmdLong n) →
    (∀ v, bitAt v s.config.layout.ccon.cmdstart = true → i ≠ .wrCcon v) →
    t.ce = s.ce ∧ t.regs.rsp0 = s.regs.rsp0 ∧ t.regs.rsp1 = s.regs.rsp1 ∧ t.regs.rsp2 = s.regs.rsp2 ∧
      t.regs.rsp3 = s.regs.rsp3 ∧ t.regs.csta = s.regs.csta)

/-! ## The data engine and the FIFO -/

/-- R173, R231 to R234: with the engine idle, a block count and a block size, the two forms, and a word of one of the two
patterns written to DCON, store the fields of DCON and arm the engine with the length sampled in that step; otherwise they
are refused. -/
def Obligations.DataFormsArmTheEngine : Prop :=
  (∀ (blknum : BitVec 11) (widebus : Bool) (s : State), let l := s.config.layout.dcon
    (s.de = .idle → blknum ≠ 0#11 → s.regs.bsize ≠ 0#32 →
      exec (.dataRx blknum widebus) s = .next ((s.setRegs { s.regs with
        dcon := ⟨blknum, l.rxStart, widebus, true, true, false, l.wordSize⟩ }).setDe
          (.armed .rx (s.regs.bsize.toNat * blknum.toNat))) ∧
      exec (.dataTx blknum widebus) s = .next ((s.setRegs { s.regs with
        dcon := ⟨blknum, l.txStart, widebus, true, false, true, l.wordSize⟩ }).setDe
          (.armed .tx (s.regs.bsize.toNat * blknum.toNat)))) ∧
    ((s.de ≠ .idle ∨ blknum = 0#11 ∨ s.regs.bsize = 0#32) →
      exec (.dataRx blknum widebus) s = .refused .dataArmRefused ∧
      exec (.dataTx blknum widebus) s = .refused .dataArmRefused)) ∧
  (∀ (v : Word) (dir : Direction) (s : State), Admissible s.config → let l := s.config.layout.dcon
    v &&& dconFormMask l = dataFormWord l dir 0#11 false →
    (s.de = .idle → blknumOf l v ≠ 0#11 → s.regs.bsize ≠ 0#32 →
      exec (.wrDcon v) s = .next ((s.setRegs { s.regs with
        dcon := ⟨blknumOf l v, l.modeOf v, bitAt v l.widebus, bitAt v l.blockmode, bitAt v l.racmd,
          bitAt v l.tarsp, l.datasize.get v⟩ }).setDe (.armed dir (s.regs.bsize.toNat * (blknumOf l v).toNat))) ∧
      (bitAt v l.racmd = true ↔ dir = .rx) ∧ (bitAt v l.tarsp = true ↔ dir = .tx)) ∧
    ((s.de ≠ .idle ∨ blknumOf l v = 0#11 ∨ s.regs.bsize = 0#32) →
      exec (.wrDcon v) s = .refused .dataArmRefused))

/-- R236: the zero write, by the word or by its form, is legal in every state of the data engine: the fields of DCON are zero,
the engine idle, and nothing else changes; the flags of DSTA and the FIFO keep their values. -/
def Obligations.DataOffReturnsToIdle : Prop :=
  ∀ s : State,
    exec .dataOff s = .next ((s.setRegs { s.regs with
      dcon := ⟨0#11, 0#32, false, false, false, false, 0#32⟩ }).setDe .idle) ∧
    exec (.wrDcon 0#32) s = .next ((s.setRegs { s.regs with
      dcon := ⟨0#11, 0#32, false, false, false, false, 0#32⟩ }).setDe .idle)

/-- R240, R241: a pop takes the four oldest bytes, oldest in the low byte of the word, and a push appends the four bytes of
the word, low byte first; nothing else changes. Without four bytes, or without room for four, they are refused. They are
the accesses of the data register (R183, R184). -/
def Obligations.DataRegisterMovesFourBytes : Prop :=
  (∀ v : Word, encode Config.reference .rdDat = .access .read 32 0x40 0#32 ∧
    encode Config.reference (.wrDat v) = .access .write 32 0x40 v) ∧
  (∀ (b0 b1 b2 b3 : Byte) (rest : List Byte) (s : State), s.fifo = b0 :: b1 :: b2 :: b3 :: rest →
    ∃ v : Word, exec .rdDat s = .next ((s.setFifo rest).setHostWord v) ∧
      v.extractLsb' 0 8 = b0 ∧ v.extractLsb' 8 8 = b1 ∧ v.extractLsb' 16 8 = b2 ∧ v.extractLsb' 24 8 = b3) ∧
  (∀ s : State, s.fifo.length < 4 → exec .rdDat s = .refused .fifoUnderflow) ∧
  (∀ (v : Word) (s : State), s.fifo.length + 4 ≤ s.config.fifoDepth →
    exec (.wrDat v) s = .next (s.setFifo (s.fifo ++
      [v.extractLsb' 0 8, v.extractLsb' 8 8, v.extractLsb' 16 8, v.extractLsb' 24 8]))) ∧
  (∀ (v : Word) (s : State), s.config.fifoDepth < s.fifo.length + 4 → exec (.wrDat v) s = .refused .fifoOverflow)

/-- R83 with R87: words pushed into an empty FIFO are popped in order, whole, and leave it empty. -/
def Obligations.FifoKeepsOrder : Prop :=
  ∀ (ws : List Word) (s : State), s.fifo = [] → 4 * ws.length ≤ s.config.fifoDepth →
    ∃ t u, performAll (ws.map Instr.wrDat) s = .next t ∧ popWords ws.length t = some (ws, u) ∧ u.fifo = []

/-- R250, R251, R252: the data-movement events, each with its guard on the engine and the FIFO: what they record, what they
do to the FIFO and to the count of bytes left, and nothing else. Without room for the bytes, or without the bytes, they
do not happen. -/
def Obligations.DataMovementEvents : Prop :=
  (∀ (bs : List Byte) (left : Nat) (s : State), s.de = .active .rx left → 1 ≤ bs.length → bs.length ≤ left →
    s.fifo.length + bs.length ≤ s.config.fifoDepth →
    exec (.evRxBytes bs) s = .next (((s.setCard (s.card ++ [.rxBytes bs])).setFifo (s.fifo ++ bs)).setDe
      (.active .rx (left - bs.length)))) ∧
  (∀ (k left : Nat) (s : State), s.de = .active .tx left → 1 ≤ k → k ≤ left → k ≤ s.fifo.length →
    ∃ bs rest, s.fifo = bs ++ rest ∧ bs.length = k ∧
      exec (.evTxBytes k) s = .next (((s.setCard (s.card ++ [.txBytes bs])).setFifo rest).setDe
        (.active .tx (left - k)))) ∧
  (∀ (dir : Direction) (s : State), s.de = .active dir 0 →
    exec .evDataFinish s = .next ((s.setRegs { s.regs with
      dsta := { s.regs.dsta with xferfinish := true } }).setDe .done)) ∧
  (∀ (bs : List Byte) (s : State), s.config.fifoDepth < s.fifo.length + bs.length →
    exec (.evRxBytes bs) s = .refused .eventNotEnabled) ∧
  (∀ (k : Nat) (s : State), s.fifo.length < k → exec (.evTxBytes k) s = .refused .eventNotEnabled)

/-- R260 to R264: in an active data phase each error event sets its flag, and the engine goes on or stops, both of which
happen; nothing else changes. -/
def Obligations.DataErrorEvents : Prop :=
  ∀ (stops : Bool) (dir : Direction) (left : Nat) (s : State), s.de = .active dir left →
    exec (.evCrcFail stops) s = .next ((s.setRegs { s.regs with dsta := { s.regs.dsta with crcfail := true } }).setDe
      (if stops then .err else .active dir left)) ∧
    exec (.evRxcrcFail stops) s = .next ((s.setRegs { s.regs with
      dsta := { s.regs.dsta with rxcrcfail := true } }).setDe (if stops then .err else .active dir left)) ∧
    exec (.evDataTimeout stops) s = .next ((s.setRegs { s.regs with
      dsta := { s.regs.dsta with datatimeout := true } }).setDe (if stops then .err else .active dir left)) ∧
    exec (.evFifoFail stops) s = .next ((s.setRegs { s.regs with
      dsta := { s.regs.dsta with fifofail := true } }).setDe (if stops then .err else .active dir left))

/-- R265 and the guards of R210 to R213 and R250 to R252: an event happens exactly when its guard holds, and only an event of
an active data phase changes the flags of DSTA. -/
def Obligations.EventsHappenExactlyUnderTheirGuards : Prop :=
  ∀ (s : State),
    ((∃ t, exec .evCmdSent s = .next t) ↔ ∃ index arg wait long, s.ce = .sending index arg wait long) ∧
    (∀ w, (∃ t, exec (.evRspShort w) s = .next t) ↔ s.ce = .waitRsp false) ∧
    (∀ a b c d, (∃ t, exec (.evRspLong a b c d) s = .next t) ↔ s.ce = .waitRsp true) ∧
    ((∃ t, exec .evRspTimeout s = .next t) ↔ ∃ long, s.ce = .waitRsp long) ∧
    (∀ bs, (∃ t, exec (.evRxBytes bs) s = .next t) ↔
      ∃ left, s.de = .active .rx left ∧ 1 ≤ bs.length ∧ bs.length ≤ left ∧
        s.fifo.length + bs.length ≤ s.config.fifoDepth) ∧
    (∀ k, (∃ t, exec (.evTxBytes k) s = .next t) ↔
      ∃ left, s.de = .active .tx left ∧ 1 ≤ k ∧ k ≤ left ∧ k ≤ s.fifo.length) ∧
    ((∃ t, exec .evDataFinish s = .next t) ↔ ∃ dir, s.de = .active dir 0) ∧
    (∀ stops i, i = .evCrcFail stops ∨ i = .evRxcrcFail stops ∨ i = .evDataTimeout stops ∨ i = .evFifoFail stops →
      ((∃ t, exec i s = .next t) ↔ ∃ dir left, s.de = .active dir left)) ∧
    (∀ i t, i.isEvent = true → exec i s = .next t → t.regs.dsta ≠ s.regs.dsta → ∃ dir left, s.de = .active dir left)

/-- R269: which operations and events can change the data engine, and which the FIFO. -/
def Obligations.OnlyDataOperationsTouchEngineAndFifo : Prop :=
  ∀ (i : Instr) (s t : State), exec i s = .next t →
    (t.de ≠ s.de → (∃ v, i = .wrDcon v) ∨ (∃ n b, i = .dataRx n b) ∨ (∃ n b, i = .dataTx n b) ∨ i = .dataOff ∨
      i = .conReset ∨ (∃ v, bitAt v s.config.layout.con.sdreset = true ∧ i = .wrCon v) ∨ i = .evCmdSent ∨
      (∃ w, i = .evRspShort w) ∨
      (∃ a b c d, i = .evRspLong a b c d) ∨ (∃ bs, i = .evRxBytes bs) ∨ (∃ k, i = .evTxBytes k) ∨ i = .evDataFinish ∨
      (∃ b, i = .evCrcFail b) ∨ (∃ b, i = .evRxcrcFail b) ∨ (∃ b, i = .evDataTimeout b) ∨ (∃ b, i = .evFifoFail b)) ∧
    (t.fifo ≠ s.fifo → i = .rdDat ∨ (∃ v, i = .wrDat v) ∨ i = .conReset ∨ (∃ c, i = .conCfg c true) ∨
      (∃ v, (bitAt v s.config.layout.con.sdreset = true ∨ bitAt v s.config.layout.con.fiforeset = true) ∧
        i = .wrCon v) ∨
      (∃ bs, i = .evRxBytes bs) ∨ (∃ k, i = .evTxBytes k))

/-! ## Rules about the whole block -/

/-- R51: latched flags are set only by device events: after any other operation, a flag that is set was set before. -/
def Obligations.OnlyEventsSetLatchedFlags : Prop :=
  ∀ (i : Instr) (s t : State), i.isEvent = false → exec i s = .next t →
    (t.regs.csta.rspfin = true → s.regs.csta.rspfin = true) ∧
    (t.regs.csta.cmdtimeout = true → s.regs.csta.cmdtimeout = true) ∧
    (t.regs.csta.cmdsent = true → s.regs.csta.cmdsent = true) ∧
    (t.regs.dsta.xferfinish = true → s.regs.dsta.xferfinish = true) ∧
    (t.regs.dsta.datatimeout = true → s.regs.dsta.datatimeout = true) ∧
    (t.regs.dsta.rxcrcfail = true → s.regs.dsta.rxcrcfail = true) ∧
    (t.regs.dsta.crcfail = true → s.regs.dsta.crcfail = true) ∧
    (t.regs.dsta.fifofail = true → s.regs.dsta.fifofail = true)

/-- R150: a register access changes `pc` never, nor the card record, the caller's buffer, ControllerState or the
collaborators; nor does a device event, but for the card record; and neither can end with a fault. -/
def Obligations.AccessesAndEventsLeaveTheSequencerAlone : Prop :=
  ∀ (i : Instr) (s : State), hostAccess i = true ∨ i.isEvent = true →
    (∀ why, exec i s ≠ .fault why) ∧
    ∀ t, exec i s = .next t →
      t.config = s.config ∧ t.pc = s.pc ∧ t.ctrl = s.ctrl ∧ t.session = s.session ∧ t.buffer = s.buffer ∧
      t.clock = s.clock ∧ t.gpio = s.gpio ∧ t.result = s.result ∧ t.agenda = s.agenda ∧
      (hostAccess i = true → t.card = s.card) ∧
      (i.isEvent = true → t.hostWord = s.hostWord ∧ t.draws = s.draws)

/-- R43: the card record is append-only, along every step, under every configuration. -/
def Obligations.CardRecordOnlyGrows : Prop :=
  ∀ (s t : State), step s = .next t → ∃ more, t.card = s.card ++ more

/-- The state after reset meets the invariant: the default configuration is admissible, among the rest. (The values
`State.reset` holds where the spec draws are the model's, log entries 1 and 2.) -/
def Obligations.ResetMeetsTheInvariant : Prop := Inv State.reset

/-- The invariant is kept by every step, from every state that meets it, under every admissible configuration, which no step
changes: the register values fit their fields, the FIFO fits, the buffer is canonical, IMSK is zero or what
software reset left, DCON and the data engine agree, the response registers are those of one response, and the phase and the
working registers fit the operation that runs. -/
def Obligations.EveryStepKeepsTheInvariant : Prop :=
  ∀ (s t : State), Inv s → step s = .next t → Inv t ∧ t.config = s.config

/-- R82, R348: from a state that meets the invariant no step faults: TRANSFER touches no byte outside the buffer, and the
block has no other fault. -/
def Obligations.NoStepTouchesABytePastTheBuffer : Prop :=
  ∀ (s : State) (why : Fault), Inv s → step s ≠ .fault why

/-- R335: every change of the phase is a row of the table; only an exhausted DATA_LOOP_BOUND leads from DataPhase to
Failed(DataTimeout). -/
def Obligations.PhaseChangesAreRowsOfTheTable : Prop :=
  ∀ (s t : State), Inv s → step s = .next t →
    (t.pc = s.pc ∨ phaseRow s.pc t.pc) ∧
    (s.pc = .dataPhase → t.pc = .failed .dataTimeout → s.config.dataLoopBound.isSome = true)

/-! ## Session operations: starting -/

/-- R281, R282, R133, R345: how EXECUTE starts on a ready machine. Without a descriptor, or with one inside the contract, it
enters CommandPhase with ISSUE next; any other bad operand than an oversized block count is refused. A block count above
2047 goes to Failed(ConfigurationError) and, with the next turn, back to Idle with that outcome, no response and nothing
remaining: no register, engine, FIFO byte, buffer byte or card item changes. -/
def Obligations.ExecuteValidatesFirst : Prop :=
  (∀ (cmd : Command) (s : State), Ready s →
    exec (.execute cmd none) s =
      .next (((s.setSession (.execute (newRun cmd none 0))).setResult none).setPc .commandPhase) ∧
    (∀ d, d.blockCount ≤ 2047 → (d.blockSize * d.blockCount) % 4 = 0 →
      d.bufferLength = d.blockSize * d.blockCount → (d.busWidth = 1 ∨ d.busWidth = 4) → d.blockCount ≠ 0 →
      d.blockSize ≠ 0 → d.blockSize ≤ s.config.layout.bsize.max → ¬ (d.direction = .tx ∧ cmd.kind = .none) →
      exec (.execute cmd (some d)) s =
        .next (((s.setSession (.execute (newRun cmd (some d) (d.blockSize * d.blockCount)))).setResult none).setPc
          .commandPhase)) ∧
    (∀ d, d.blockCount ≤ 2047 → ((d.blockSize * d.blockCount) % 4 ≠ 0 ∨
      d.bufferLength ≠ d.blockSize * d.blockCount ∨ (d.busWidth ≠ 1 ∧ d.busWidth ≠ 4) ∨ d.blockCount = 0 ∨
      d.blockSize = 0 ∨ s.config.layout.bsize.max < d.blockSize ∨ (d.direction = .tx ∧ cmd.kind = .none)) →
      exec (.execute cmd (some d)) s = .refused .contractViolation)) ∧
  (∀ (cmd : Command) (d : Descriptor) (s : State), Ready s → 2047 < d.blockCount →
    s.agenda = [] →
    ∃ t, exec (.execute cmd (some d)) s = .next t ∧ t.pc = .failed .configurationError ∧
      step t = .next (s.setResult (some (.execute ⟨.failure .configurationError, .none, 0⟩))))

/-- R290, R295, R300, R308 with R280: a sub-step called where EXECUTE stands at its call starts: ISSUE with the first status
clear, READ_RESPONSE with RSP0 (or it returns at once for kind none), TRANSFER with its first iteration (which
DATA_LOOP_BOUND, if it is set, counts), WAIT_COMPLETION with its poll and DONE_POLL_BOUND. -/
def Obligations.SubStepsStartAtTheirCalls : Prop :=
  ∀ (x : ExecRun) (s : State), s.session = .execute x →
    (x.pos = .callIssue → exec (.issue x.cmd x.data) s =
      .next (s.setSession (.execute { x with pos := .clearCsta }))) ∧
    (x.pos = .callReadResponse → x.cmd.kind ≠ .none → exec (.readResponse x.cmd.kind) s =
      .next (s.setSession (.execute { x with pos := .readRsp0 }))) ∧
    (x.pos = .callReadResponse → x.cmd.kind = .none → x.data = none → exec (.readResponse .none) s =
      .next ((s.setSession (.execute { x with resp := .none, pos := .finish })).setPc .completionPhase)) ∧
    (∀ d, x.pos = .callReadResponse → x.cmd.kind = .none → x.data = some d → exec (.readResponse .none) s =
      .next ((s.setSession (.execute { x with resp := .none, pos := .callTransfer })).setPc .dataPhase)) ∧
    (∀ d, x.pos = .callTransfer → x.data = some d → d.blockSize * d.blockCount ≠ 0 →
      s.config.dataLoopBound ≠ some 0 → exec (.transfer d) s =
      .next (s.setSession (.execute { x with
        off := 0, rem := d.blockSize * d.blockCount, i := if s.config.dataLoopBound = none then 0 else 1
        pos := .readDsta }))) ∧
    (x.pos = .callWait → exec .waitCompletion s =
      .next (s.setSession (.execute { x with n := s.config.donePollBound, pos := .pollDsta })))

/-- R310, R346: how PROBE starts: without a base, or without a clock, it ends with that outcome and nothing but the result
changes; with both, the clock is enabled and the six accesses come next. No ControllerState is needed. For a state that has one,
the two failure clauses say that a failed PROBE leaves it in place: the model's choice, log entry 13; R346 does not say
it. -/
def Obligations.ProbeChecksBaseThenClock : Prop :=
  ∀ (binding : Binding) (s : State), s.session = .idle → s.pc = .idle →
    (binding.base = none → exec (.probe binding) s = .next (s.setResult (some (.probe .missingBase)))) ∧
    (∀ base, binding.base = some base → s.clock.available = false →
      exec (.probe binding) s = .next (s.setResult (some (.probe .clockUnavailable)))) ∧
    (∀ base, binding.base = some base → s.clock.available = true →
      exec (.probe binding) s = .next (((s.setClock { s.clock with enabled := true }).setSession
        (.probe binding ⟨binding.clockName⟩ base .softwareReset)).setResult none))

/-- R320, R134: how SET_CLOCK starts: a zero target is ConfigurationError with no access and no query; a divider that fits
PRE is the one of R123 for the rate of that moment; a larger one is refused. -/
def Obligations.SetClockComputesTheDivider : Prop :=
  ∀ (target : Nat) (s : State), Ready s →
    (target = 0 → exec (.setClock target) s = .next (s.setResult (some (.setClock .configurationError)))) ∧
    (target ≠ 0 → (s.clock.rate + target - 1) / target - 1 ≤ s.config.layout.pre.max →
      exec (.setClock target) s = .next ((s.setSession
        (.setClock ((s.clock.rate + target - 1) / target - 1) .writePre)).setResult none)) ∧
    (target ≠ 0 → s.config.layout.pre.max < (s.clock.rate + target - 1) / target - 1 →
      exec (.setClock target) s = .refused .dividerTooLarge)

/-- R330, R331: CARD_PRESENT (selector 7) returns the level of the card-detect line at that moment, WRITE_PROTECTED (selector
8) returns false; no register and nothing else changes. -/
def Obligations.CardQueriesAnswerAtOnce : Prop :=
  (∀ c : Config, encode c .cardPresent = .req 7#4 .none ∧ encode c .writeProtected = .req 8#4 .none) ∧
  ∀ s : State, Ready s →
    exec .cardPresent s = .next (s.setResult (some (.cardPresent s.gpio.cardDetect))) ∧
    exec .writeProtected s = .next (s.setResult (some (.writeProtected false)))

/-- R380, R346: while no ControllerState exists and nothing runs, every session operation other than PROBE is refused,
whatever the block holds. Every power-on state, whatever was drawn, is such a state, and a PROBE that fails leads from
such a state to such a state. -/
def Obligations.NothingButProbeAfterPowerOn : Prop :=
  (∀ (cmd : Command) (data : Option Descriptor) (target : Nat) (s : State),
    s.session = .idle → s.pc = .idle → s.ctrl = none →
    exec (.execute cmd data) s = .refused .notProbed ∧ exec (.setClock target) s = .refused .notProbed ∧
    exec .cardPresent s = .refused .notProbed ∧ exec .writeProtected s = .refused .notProbed) ∧
  (∀ (c : Config) (draw : PowerOn), (State.powerOn c draw).session = .idle ∧ (State.powerOn c draw).pc = .idle ∧
    (State.powerOn c draw).ctrl = none) ∧
  (∀ (binding : Binding) (s : State), s.session = .idle → s.pc = .idle → s.ctrl = none →
    (binding.base = none ∨ s.clock.available = false) →
    ∃ t, exec (.probe binding) s = .next t ∧ t.session = .idle ∧ t.pc = .idle ∧ t.ctrl = none)

/-! ## Session operations: whole runs -/

/-- R310, R381, R385, R389: a complete PROBE, from every state in which no session operation runs (every power-on state among
them): after its start and six turns the block is in the state of R385, whatever it was in before, with the card
record and the buffer as they were. With the default configuration the registers are those of R385's table. Three things are
the model's choice: a settle delay is one turn (log entry 16); under another configuration PRE, CARG and CCON hold its
configured reset values, which need not be R385's 0 (R17, log entry 33); DTIMER_INIT and BSIZE_INIT go to the field VAL
wherever LAYOUT has it, cut to its width (log entry 34). -/
def Obligations.ProbeReachesTheInitialState : Prop :=
  ∀ (binding : Binding) (base : Nat) (s : State), Admissible s.config → s.session = .idle → s.pc = .idle →
    s.agenda = [] → binding.base = some base → s.clock.available = true →
    ∃ t u, exec (.probe binding) s = .next t ∧ Host.Core.run Sys2Proof.core 6 t = .next u ∧
      AfterProbe s.config binding base u ∧ u.card = s.card ∧ u.buffer = s.buffer ∧ u.gpio = s.gpio ∧
      u.clock = { s.clock with enabled := true } ∧
      (s.config = Config.reference → u.regs = ⟨true, 0#32, 0#32, ⟨0#6, false, false, false⟩, ⟨false, false, false⟩,
        none, none, none, none, 0x7FFFFF#32, 0x200#32, ⟨0#11, 0#32, false, false, false, false, 0#32⟩,
        ⟨false, false, false, false, false⟩, 0#32⟩)

/-- R320, R323: a complete SET_CLOCK on a ready machine whose engines are quiet: PRE.DIV and the divider of ControllerState
hold the divider, whatever they held before, and no other register changes. (That the divider goes to the field DIV wherever
LAYOUT has it is the model's choice, log entry 34.) -/
def Obligations.SetClockWritesThePrescaler : Prop :=
  ∀ (target : Nat) (c : ControllerState) (s : State), Admissible s.config → Ready s → s.ctrl = some c →
    EnginesQuiet s → s.agenda = [] → target ≠ 0 → dividerFor s.clock.rate target ≤ s.config.layout.pre.max →
    ∃ t, exec (.setClock target) s = .next t ∧
      Host.Core.run Sys2Proof.core 2 t = .next (((s.setRegs { s.regs with
        div := BitVec.ofNat 32 (dividerFor s.clock.rate target) }).setCtrl
          (some { c with divider := some (dividerFor s.clock.rate target) })).setResult (some (.setClock .ok)))

/-- R322: whenever `target <= rate`, the divider gives the highest card clock `rate / (divider + 1)` not above the target,
and R321: a target above the rate, or a rate of 0, gives divider 0. -/
def Obligations.DividerIsTheSmallestThatFits : Prop :=
  ∀ (rate target : Nat), target ≠ 0 →
    rate ≤ target * (dividerFor rate target + 1) ∧
    (∀ d, rate ≤ target * (d + 1) → dividerFor rate target ≤ d) ∧
    (rate ≤ target → dividerFor rate target = 0)

/-- R290 step 4, R291, R353: one read of the command poll tests the expected bit, then the timeout bit, then the count, and
nothing but the sequencer changes. A timeout goes to the return, with CLEAR_DCON_ON_FAILURE and a descriptor through the
zero write of DCON (R11). -/
def Obligations.CommandPollTestsInOrder : Prop :=
  ∀ (x : ExecRun) (s : State), Admissible s.config → s.session = .execute x → x.pos = .pollCsta → s.agenda = [] →
    let l := s.config.layout.csta
    ∃ v, bitAt v l.rspfin = s.regs.csta.rspfin ∧ bitAt v l.cmdtimeout = s.regs.csta.cmdtimeout ∧
      bitAt v l.cmdsent = s.regs.csta.cmdsent ∧
      let u := (s.setHostWord v).setDraws (s.draws + 1)
      let expected := if x.cmd.kind = .none then s.regs.csta.cmdsent else s.regs.csta.rspfin
      let exit : ExecPos := if s.config.clearDconOnFailure = true ∧ x.data.isSome = true then .clearDcon else .returnFailure
      (expected = true → step s = .next (u.setSession (.execute { x with csta := v, pos := .clearConsumed }))) ∧
      (expected = false → s.regs.csta.cmdtimeout = true → step s = .next ((u.setSession (.execute { x with
        csta := v, r := some .timedOut, pos := exit })).setPc (.failed .commandTimeout))) ∧
      (expected = false → s.regs.csta.cmdtimeout = false → x.n ≤ 1 → step s = .next ((u.setSession (.execute { x with
        csta := v, n := 0, r := some .timedOut, pos := exit })).setPc (.failed .commandTimeout))) ∧
      (expected = false → s.regs.csta.cmdtimeout = false → 1 < x.n → step s = .next (u.setSession (.execute { x with
        csta := v, n := x.n - 1 })))

/-- R291, R342: with no further event, a poll that has n reads left and sees neither the expected bit nor the timeout bit
performs exactly n reads; EXECUTE then ends with CommandTimeout, no response, and the descriptor's whole byte count (0
without a descriptor), and the block is left as it was. -/
def Obligations.CommandPollGivesUpAfterItsBound : Prop :=
  ∀ (x : ExecRun) (s : State), Inv s → s.session = .execute x → x.pos = .pollCsta → s.agenda = [] → 1 ≤ x.n →
    s.config.clearDconOnFailure = false ∨ x.data = none →
    s.regs.csta.cmdtimeout = false → (if x.cmd.kind = .none then s.regs.csta.cmdsent else s.regs.csta.rspfin) = false →
    (∀ k, k < x.n → ∃ t v, Host.Core.run Sys2Proof.core k s = .next t ∧
      t.session = .execute { x with csta := v, n := x.n - k } ∧ t.draws = s.draws + k) ∧
    (∃ t v, Host.Core.run Sys2Proof.core (x.n + 1) s = .next t ∧
      t = ((((s.setHostWord v).setDraws (s.draws + x.n)).setSession .idle).setResult
        (some (.execute ⟨.failure .commandTimeout, .none, x.total⟩))).setPc .idle)

/-- R308, R344, R353: one read of the completion poll tests XFERFINISH, then DATATIMEOUT, then the count, and nothing but the
sequencer changes; the other three error flags are not tested (R398). A timeout goes to the return, with
CLEAR_DCON_ON_FAILURE and a descriptor through the zero write of DCON (R11). -/
def Obligations.CompletionPollTestsInOrder : Prop :=
  ∀ (x : ExecRun) (s : State), Admissible s.config → s.session = .execute x → x.pos = .pollDsta → s.agenda = [] →
    let l := s.config.layout.dsta
    ∃ v, bitAt v l.xferfinish = s.regs.dsta.xferfinish ∧ bitAt v l.datatimeout = s.regs.dsta.datatimeout ∧
      let u := (s.setHostWord v).setDraws (s.draws + 1)
      let exit : ExecPos := if s.config.clearDconOnFailure = true ∧ x.data.isSome = true then .clearDcon else .returnFailure
      (s.regs.dsta.xferfinish = true → step s = .next (u.setSession (.execute { x with dsta := v, pos := .clearDone }))) ∧
      (s.regs.dsta.xferfinish = false → s.regs.dsta.datatimeout = true → step s = .next ((u.setSession (.execute { x with
        dsta := v, c := some .timedOut, pos := exit })).setPc (.failed .dataTimeout))) ∧
      (s.regs.dsta.xferfinish = false → s.regs.dsta.datatimeout = false → x.n ≤ 1 →
        step s = .next ((u.setSession (.execute { x with
          dsta := v, n := 0, c := some .timedOut, pos := exit })).setPc (.failed .dataTimeout))) ∧
      (s.regs.dsta.xferfinish = false → s.regs.dsta.datatimeout = false → 1 < x.n →
        step s = .next (u.setSession (.execute { x with dsta := v, n := x.n - 1 })))

/-- R308, R398: with XFERFINISH set, the completion waiter succeeds whatever other flags are set, clears all five (which
DSTA_DONE_CLEAR names, as its default 0x1F0 does), returns the data engine to idle, and EXECUTE ends with Success: a
late CRC failure goes unreported. -/
def Obligations.LateDataErrorsGoUnreported : Prop :=
  ∀ (x : ExecRun) (s : State), s.session = .execute x → x.pos = .pollDsta → s.agenda = [] →
    Admissible s.config →
    s.config.dstaDoneClear &&& maskOf s.config.layout.dsta.fields = maskOf s.config.layout.dsta.fields →
    s.regs.dsta.xferfinish = true →
    ∃ v, Host.Core.run Sys2Proof.core 4 s = .next (((((((s.setHostWord v).setDraws (s.draws + 1)).setRegs { s.regs with
        dsta := ⟨false, false, false, false, false⟩
        dcon := ⟨0#11, 0#32, false, false, false, false, 0#32⟩ }).setDe .idle).setSession .idle).setResult
          (some (.execute ⟨.success x.resp, x.resp, x.rem⟩))).setPc .idle)

/-- R301, R303, R305: the read path of the FIFO loop. With k words still to move, all of them queued, and no error flag, 3k
turns move them: the bytes stand in the buffer in FIFO order from the offset on, every other byte of the buffer is as
before, the FIFO keeps what was behind them, and the completion waiter comes next. -/
def Obligations.TransferReadMovesTheQueuedBytes : Prop :=
  ∀ (k : Nat) (x : ExecRun) (d : Descriptor) (bs rest : List Byte) (s : State), Inv s → s.session = .execute x →
    s.config.dataLoopBound = none →
    x.pos = .readDsta → x.data = some d → d.direction = .rx → x.rem = 4 * k → s.fifo = bs ++ rest →
    bs.length = 4 * k → noErrorFlag s.regs.dsta → s.agenda = [] →
    ∃ t y, Host.Core.run Sys2Proof.core (3 * k) s = .next t ∧ t.fifo = rest ∧
      (∀ j (h : j < bs.length), readByte t.buffer (x.off + j) = bs[j]) ∧
      (∀ a, a < x.off ∨ x.off + 4 * k ≤ a → readByte t.buffer a = readByte s.buffer a) ∧
      t.session = .execute y ∧ y.pos = .callWait ∧ y.rem = 0 ∧ y.t = some ⟨true, 0, 0#32⟩ ∧
      t.pc = .completionPhase ∧ t.regs = s.regs ∧ t.ce = s.ce ∧ t.de = s.de ∧ t.card = s.card ∧ t.ctrl = s.ctrl

/-- R302, R303, R305, R408: the write path of the FIFO loop. With k words still to move and TFHALF staying set while they
are pushed, 3k turns push the buffer's bytes from the offset on, in order; the buffer is not written. -/
def Obligations.TransferWritePushesTheBufferBytes : Prop :=
  ∀ (k : Nat) (x : ExecRun) (d : Descriptor) (s : State), Inv s → s.session = .execute x →
    s.config.dataLoopBound = none → x.pos = .readDsta → x.data = some d → d.direction = .tx → x.rem = 4 * k →
    s.fifo.length + 4 * k ≤ s.config.txReadyLevel + 4 → noErrorFlag s.regs.dsta → s.agenda = [] →
    ∃ t y bs, Host.Core.run Sys2Proof.core (3 * k) s = .next t ∧ t.fifo = s.fifo ++ bs ∧ bs.length = 4 * k ∧
      (∀ j (h : j < bs.length), bs[j] = readByte s.buffer (x.off + j)) ∧ t.buffer = s.buffer ∧
      t.session = .execute y ∧ y.pos = .callWait ∧ y.rem = 0 ∧ y.t = some ⟨true, 0, 0#32⟩ ∧
      t.pc = .completionPhase ∧ t.regs = s.regs ∧ t.ce = s.ce ∧ t.de = s.de ∧ t.card = s.card ∧ t.ctrl = s.ctrl

/-- R304, R401: the hang. With no error flag set and the FIFO flag of its direction not set, and no event, the FIFO loop
re-polls for ever: it neither ends nor moves a word, however many turns it gets. -/
def Obligations.TransferCanHangForEver : Prop :=
  ∀ (k : Nat) (x : ExecRun) (d : Descriptor) (s : State), Admissible s.config → s.config.dataLoopBound = none →
    s.session = .execute x → x.pos = .readDsta → x.data = some d → 0 < x.rem → s.agenda = [] →
    noErrorFlag s.regs.dsta → s.fifo.length ≤ s.config.fifoDepth →
    (d.direction = .rx → s.fifo.length < 4) → (d.direction = .tx → s.config.txReadyLevel < s.fifo.length) →
    ∃ t y, Host.Core.run Sys2Proof.core (2 * k) s = .next t ∧ t.session = .execute y ∧ y.pos = .readDsta ∧
      y.off = x.off ∧ y.rem = x.rem ∧ y.data = x.data ∧ t.pc = s.pc ∧ t.fifo = s.fifo ∧ t.buffer = s.buffer ∧
      t.regs = s.regs ∧ t.de = s.de ∧ t.result = s.result

/-- R304, R343, R353: an error flag seen by the status reads of an iteration ends the transfer before the FIFO test: no word
moves, and EXECUTE ends with DataError of exactly the error flags set, the response it captured and the bytes not yet
moved; DCON keeps its word and the flags stay set (R352). -/
def Obligations.TransferAbortsOnAnErrorFlag : Prop :=
  ∀ (x : ExecRun) (s : State), Admissible s.config → s.config.clearDconOnFailure = false ∨ x.data = none →
    s.session = .execute x → x.pos = .readDsta → s.agenda = [] →
    ¬ noErrorFlag s.regs.dsta →
    ∃ v, Host.Core.run Sys2Proof.core 3 s = .next (((((s.setHostWord v).setDraws (s.draws + 2)).setSession .idle).setResult
      (some (.execute ⟨.failure (.dataError (errorFlags s.regs.dsta)), x.resp, x.rem⟩))).setPc .idle)

/-- R11, R357: with CLEAR_DCON_ON_FAILURE set, a failure of a command with a descriptor makes one more access, the zero write
of DCON; the data engine is then idle, and FIFO, flags of DSTA and command engine are as the failure left them. -/
def Obligations.ClearDconOnFailureIdlesTheDataEngine : Prop :=
  ∀ (x : ExecRun) (d : Descriptor) (why : Failure) (s : State),
    s.config.clearDconOnFailure = true → x.data = some d → s.agenda = [] →
    Host.Core.run Sys2Proof.core 2 (failExecute why x s) = .next ((((((s.setRegs { s.regs with
      dcon := ⟨0#11, 0#32, false, false, false, false, 0#32⟩ }).setDe .idle).setSession .idle).setResult
        (some (.execute ⟨.failure why, x.resp, x.rem⟩))).setPc .idle))

/-- R11, R344 cause (c): with DATA_LOOP_BOUND set, a transfer whose flags never let it go on gives up after that many
iterations with DataTimeout and the bytes not yet moved, where the reference hangs. -/
def Obligations.DataLoopBoundEndsTheHang : Prop :=
  ∀ (bound : Nat) (x : ExecRun) (d : Descriptor) (s : State), Admissible s.config →
    s.config.dataLoopBound = some bound → s.config.clearDconOnFailure = false → s.session = .execute x →
    x.pos = .callTransfer → x.data = some d → 0 < totalBytes d → s.agenda = [] → noErrorFlag s.regs.dsta →
    s.fifo.length ≤ s.config.fifoDepth →
    (d.direction = .rx → s.fifo.length < 4) → (d.direction = .tx → s.config.txReadyLevel < s.fifo.length) →
    ∃ t, Host.Core.run Sys2Proof.core (1 + 2 * bound + 1) s = .next t ∧ t.pc = .idle ∧ t.session = .idle ∧
      t.result = some (.execute ⟨.failure .dataTimeout, x.resp, totalBytes d⟩) ∧ t.regs = s.regs ∧ t.fifo = s.fifo ∧
      t.buffer = s.buffer ∧ t.de = s.de

/-- R281, R284, R290, R295: EXECUTE without data, on a ready machine with an idle command engine, when the card answers
after the arming write: Success with the response the card sent, no flag of CSTA or DSTA left set, CARG and CCON as
the command says, and the registers of the data side, the FIFO and the buffer untouched. -/
def Obligations.ExecuteWithoutDataSucceeds : Prop :=
  ∀ (cmd : Command) (w0 w1 w2 w3 : Word) (s : State), Admissible s.config → Ready s → s.ce = .idle →
    let events : List Instr := match cmd.kind with
      | .none => [.evCmdSent]
      | .short => [.evCmdSent, .evRspShort w0]
      | .long => [.evCmdSent, .evRspLong w0 w1 w2 w3]
    let resp : Response := match cmd.kind with
      | .none => .none
      | .short => .short w0
      | .long => .long w0 w1 w2 w3
    s.agenda = [.turn, .turn, .turn, .turn, .turn, .turn] ++ events.map (fun i => .op (encode s.config i)) →
    ∃ t k u, exec (.execute cmd none) s = .next t ∧ Host.Core.run Sys2Proof.core k t = .next u ∧
      u.result = some (.execute ⟨.success resp, resp, 0⟩) ∧ u.pc = .idle ∧ u.session = .idle ∧ u.ce = .idle ∧
      u.regs.csta = ⟨false, false, false⟩ ∧ u.regs.dsta = ⟨false, false, false, false, false⟩ ∧
      u.regs.carg = cmd.argument ∧
      u.regs.ccon = ⟨cmd.index, true, decide (cmd.kind ≠ .none), decide (cmd.kind = .long)⟩ ∧
      u.regs.dcon = s.regs.dcon ∧ u.regs.bsize = s.regs.bsize ∧ u.fifo = s.fifo ∧ u.buffer = s.buffer ∧
      u.ctrl = s.ctrl ∧ ∃ frames, u.card = s.card ++ .cmdFrame cmd.index cmd.argument :: frames

/-- R290, R102: the accesses of ISSUE with a descriptor, in order, up to the poll, on a machine whose engines are idle. The
three status clears come first: after them no latched flag is set and both engines are idle still (R102 (a)). Then come
BSIZE and DCON: the data engine is armed and the command engine idle, with CARG and CCON as before (R102 (b)). Then come
CARG and CCON: both engines are armed, the command engine with the command's argument (R102 (c)). (That the block size goes
to the field VAL of BSIZE wherever LAYOUT has it is the model's choice, log entry 34.) -/
def Obligations.IssueArmsDataThenCommand : Prop :=
  ∀ (x : ExecRun) (d : Descriptor) (s : State), Inv s → s.session = .execute x → x.pos = .callIssue →
    x.data = some d → s.ce = .idle → s.de = .idle → s.agenda = [] →
    let cleared : Regs := { s.regs with csta := ⟨false, false, false⟩, dsta := ⟨false, false, false, false, false⟩ }
    let dataArmed : Regs := { cleared with
      bsize := BitVec.ofNat 32 d.blockSize
      dcon := armingFields s.config.layout.dcon d.direction (BitVec.ofNat 11 d.blockCount) (decide (d.busWidth = 4)) }
    let bothArmed : Regs := { dataArmed with
      carg := x.cmd.argument
      ccon := ⟨x.cmd.index, true, decide (x.cmd.kind ≠ .none), decide (x.cmd.kind = .long)⟩ }
    Host.Core.run Sys2Proof.core 4 s =
      .next ((s.setRegs cleared).setSession (.execute { x with pos := .writeBsize })) ∧
    Host.Core.run Sys2Proof.core 6 s =
      .next (((s.setRegs dataArmed).setDe (.armed d.direction (totalBytes d))).setSession
        (.execute { x with pos := .writeCarg })) ∧
    Host.Core.run Sys2Proof.core 8 s =
      .next ((((s.setRegs bothArmed).setDe (.armed d.direction (totalBytes d))).setCe
        (.sending x.cmd.index x.cmd.argument (decide (x.cmd.kind ≠ .none)) (decide (x.cmd.kind = .long)))).setSession
          (.execute { x with n := s.config.cmdPollBound, pos := .pollCsta }))
end

