-- ==== Sys2Proof/Laws/State.lean ====
section
/-! SUPPORT. What each field update of State does to each field: the update's own field holds the new value, every
other field is as before. All by definition; no later proof unfolds a record update. -/

namespace Sys2Proof.Machine

@[simp] theorem State.setRegs_config (s : State) (v : Regs) : (s.setRegs v).config = s.config := rfl
@[simp] theorem State.setRegs_regs (s : State) (v : Regs) : (s.setRegs v).regs = v := rfl
@[simp] theorem State.setRegs_fifo (s : State) (v : Regs) : (s.setRegs v).fifo = s.fifo := rfl
@[simp] theorem State.setRegs_ce (s : State) (v : Regs) : (s.setRegs v).ce = s.ce := rfl
@[simp] theorem State.setRegs_de (s : State) (v : Regs) : (s.setRegs v).de = s.de := rfl
@[simp] theorem State.setRegs_card (s : State) (v : Regs) : (s.setRegs v).card = s.card := rfl
@[simp] theorem State.setRegs_pc (s : State) (v : Regs) : (s.setRegs v).pc = s.pc := rfl
@[simp] theorem State.setRegs_ctrl (s : State) (v : Regs) : (s.setRegs v).ctrl = s.ctrl := rfl
@[simp] theorem State.setRegs_session (s : State) (v : Regs) : (s.setRegs v).session = s.session := rfl
@[simp] theorem State.setRegs_buffer (s : State) (v : Regs) : (s.setRegs v).buffer = s.buffer := rfl
@[simp] theorem State.setRegs_clock (s : State) (v : Regs) : (s.setRegs v).clock = s.clock := rfl
@[simp] theorem State.setRegs_gpio (s : State) (v : Regs) : (s.setRegs v).gpio = s.gpio := rfl
@[simp] theorem State.setRegs_hostWord (s : State) (v : Regs) : (s.setRegs v).hostWord = s.hostWord := rfl
@[simp] theorem State.setRegs_result (s : State) (v : Regs) : (s.setRegs v).result = s.result := rfl
@[simp] theorem State.setRegs_draws (s : State) (v : Regs) : (s.setRegs v).draws = s.draws := rfl
@[simp] theorem State.setRegs_agenda (s : State) (v : Regs) : (s.setRegs v).agenda = s.agenda := rfl

@[simp] theorem State.setFifo_config (s : State) (v : List Byte) : (s.setFifo v).config = s.config := rfl
@[simp] theorem State.setFifo_regs (s : State) (v : List Byte) : (s.setFifo v).regs = s.regs := rfl
@[simp] theorem State.setFifo_fifo (s : State) (v : List Byte) : (s.setFifo v).fifo = v := rfl
@[simp] theorem State.setFifo_ce (s : State) (v : List Byte) : (s.setFifo v).ce = s.ce := rfl
@[simp] theorem State.setFifo_de (s : State) (v : List Byte) : (s.setFifo v).de = s.de := rfl
@[simp] theorem State.setFifo_card (s : State) (v : List Byte) : (s.setFifo v).card = s.card := rfl
@[simp] theorem State.setFifo_pc (s : State) (v : List Byte) : (s.setFifo v).pc = s.pc := rfl
@[simp] theorem State.setFifo_ctrl (s : State) (v : List Byte) : (s.setFifo v).ctrl = s.ctrl := rfl
@[simp] theorem State.setFifo_session (s : State) (v : List Byte) : (s.setFifo v).session = s.session := rfl
@[simp] theorem State.setFifo_buffer (s : State) (v : List Byte) : (s.setFifo v).buffer = s.buffer := rfl
@[simp] theorem State.setFifo_clock (s : State) (v : List Byte) : (s.setFifo v).clock = s.clock := rfl
@[simp] theorem State.setFifo_gpio (s : State) (v : List Byte) : (s.setFifo v).gpio = s.gpio := rfl
@[simp] theorem State.setFifo_hostWord (s : State) (v : List Byte) : (s.setFifo v).hostWord = s.hostWord := rfl
@[simp] theorem State.setFifo_result (s : State) (v : List Byte) : (s.setFifo v).result = s.result := rfl
@[simp] theorem State.setFifo_draws (s : State) (v : List Byte) : (s.setFifo v).draws = s.draws := rfl
@[simp] theorem State.setFifo_agenda (s : State) (v : List Byte) : (s.setFifo v).agenda = s.agenda := rfl

@[simp] theorem State.setCe_config (s : State) (v : CmdEngine) : (s.setCe v).config = s.config := rfl
@[simp] theorem State.setCe_regs (s : State) (v : CmdEngine) : (s.setCe v).regs = s.regs := rfl
@[simp] theorem State.setCe_fifo (s : State) (v : CmdEngine) : (s.setCe v).fifo = s.fifo := rfl
@[simp] theorem State.setCe_ce (s : State) (v : CmdEngine) : (s.setCe v).ce = v := rfl
@[simp] theorem State.setCe_de (s : State) (v : CmdEngine) : (s.setCe v).de = s.de := rfl
@[simp] theorem State.setCe_card (s : State) (v : CmdEngine) : (s.setCe v).card = s.card := rfl
@[simp] theorem State.setCe_pc (s : State) (v : CmdEngine) : (s.setCe v).pc = s.pc := rfl
@[simp] theorem State.setCe_ctrl (s : State) (v : CmdEngine) : (s.setCe v).ctrl = s.ctrl := rfl
@[simp] theorem State.setCe_session (s : State) (v : CmdEngine) : (s.setCe v).session = s.session := rfl
@[simp] theorem State.setCe_buffer (s : State) (v : CmdEngine) : (s.setCe v).buffer = s.buffer := rfl
@[simp] theorem State.setCe_clock (s : State) (v : CmdEngine) : (s.setCe v).clock = s.clock := rfl
@[simp] theorem State.setCe_gpio (s : State) (v : CmdEngine) : (s.setCe v).gpio = s.gpio := rfl
@[simp] theorem State.setCe_hostWord (s : State) (v : CmdEngine) : (s.setCe v).hostWord = s.hostWord := rfl
@[simp] theorem State.setCe_result (s : State) (v : CmdEngine) : (s.setCe v).result = s.result := rfl
@[simp] theorem State.setCe_draws (s : State) (v : CmdEngine) : (s.setCe v).draws = s.draws := rfl
@[simp] theorem State.setCe_agenda (s : State) (v : CmdEngine) : (s.setCe v).agenda = s.agenda := rfl

@[simp] theorem State.setDe_config (s : State) (v : DataEngine) : (s.setDe v).config = s.config := rfl
@[simp] theorem State.setDe_regs (s : State) (v : DataEngine) : (s.setDe v).regs = s.regs := rfl
@[simp] theorem State.setDe_fifo (s : State) (v : DataEngine) : (s.setDe v).fifo = s.fifo := rfl
@[simp] theorem State.setDe_ce (s : State) (v : DataEngine) : (s.setDe v).ce = s.ce := rfl
@[simp] theorem State.setDe_de (s : State) (v : DataEngine) : (s.setDe v).de = v := rfl
@[simp] theorem State.setDe_card (s : State) (v : DataEngine) : (s.setDe v).card = s.card := rfl
@[simp] theorem State.setDe_pc (s : State) (v : DataEngine) : (s.setDe v).pc = s.pc := rfl
@[simp] theorem State.setDe_ctrl (s : State) (v : DataEngine) : (s.setDe v).ctrl = s.ctrl := rfl
@[simp] theorem State.setDe_session (s : State) (v : DataEngine) : (s.setDe v).session = s.session := rfl
@[simp] theorem State.setDe_buffer (s : State) (v : DataEngine) : (s.setDe v).buffer = s.buffer := rfl
@[simp] theorem State.setDe_clock (s : State) (v : DataEngine) : (s.setDe v).clock = s.clock := rfl
@[simp] theorem State.setDe_gpio (s : State) (v : DataEngine) : (s.setDe v).gpio = s.gpio := rfl
@[simp] theorem State.setDe_hostWord (s : State) (v : DataEngine) : (s.setDe v).hostWord = s.hostWord := rfl
@[simp] theorem State.setDe_result (s : State) (v : DataEngine) : (s.setDe v).result = s.result := rfl
@[simp] theorem State.setDe_draws (s : State) (v : DataEngine) : (s.setDe v).draws = s.draws := rfl
@[simp] theorem State.setDe_agenda (s : State) (v : DataEngine) : (s.setDe v).agenda = s.agenda := rfl

@[simp] theorem State.setCard_config (s : State) (v : List CardItem) : (s.setCard v).config = s.config := rfl
@[simp] theorem State.setCard_regs (s : State) (v : List CardItem) : (s.setCard v).regs = s.regs := rfl
@[simp] theorem State.setCard_fifo (s : State) (v : List CardItem) : (s.setCard v).fifo = s.fifo := rfl
@[simp] theorem State.setCard_ce (s : State) (v : List CardItem) : (s.setCard v).ce = s.ce := rfl
@[simp] theorem State.setCard_de (s : State) (v : List CardItem) : (s.setCard v).de = s.de := rfl
@[simp] theorem State.setCard_card (s : State) (v : List CardItem) : (s.setCard v).card = v := rfl
@[simp] theorem State.setCard_pc (s : State) (v : List CardItem) : (s.setCard v).pc = s.pc := rfl
@[simp] theorem State.setCard_ctrl (s : State) (v : List CardItem) : (s.setCard v).ctrl = s.ctrl := rfl
@[simp] theorem State.setCard_session (s : State) (v : List CardItem) : (s.setCard v).session = s.session := rfl
@[simp] theorem State.setCard_buffer (s : State) (v : List CardItem) : (s.setCard v).buffer = s.buffer := rfl
@[simp] theorem State.setCard_clock (s : State) (v : List CardItem) : (s.setCard v).clock = s.clock := rfl
@[simp] theorem State.setCard_gpio (s : State) (v : List CardItem) : (s.setCard v).gpio = s.gpio := rfl
@[simp] theorem State.setCard_hostWord (s : State) (v : List CardItem) : (s.setCard v).hostWord = s.hostWord := rfl
@[simp] theorem State.setCard_result (s : State) (v : List CardItem) : (s.setCard v).result = s.result := rfl
@[simp] theorem State.setCard_draws (s : State) (v : List CardItem) : (s.setCard v).draws = s.draws := rfl
@[simp] theorem State.setCard_agenda (s : State) (v : List CardItem) : (s.setCard v).agenda = s.agenda := rfl

@[simp] theorem State.setPc_config (s : State) (v : Phase) : (s.setPc v).config = s.config := rfl
@[simp] theorem State.setPc_regs (s : State) (v : Phase) : (s.setPc v).regs = s.regs := rfl
@[simp] theorem State.setPc_fifo (s : State) (v : Phase) : (s.setPc v).fifo = s.fifo := rfl
@[simp] theorem State.setPc_ce (s : State) (v : Phase) : (s.setPc v).ce = s.ce := rfl
@[simp] theorem State.setPc_de (s : State) (v : Phase) : (s.setPc v).de = s.de := rfl
@[simp] theorem State.setPc_card (s : State) (v : Phase) : (s.setPc v).card = s.card := rfl
@[simp] theorem State.setPc_pc (s : State) (v : Phase) : (s.setPc v).pc = v := rfl
@[simp] theorem State.setPc_ctrl (s : State) (v : Phase) : (s.setPc v).ctrl = s.ctrl := rfl
@[simp] theorem State.setPc_session (s : State) (v : Phase) : (s.setPc v).session = s.session := rfl
@[simp] theorem State.setPc_buffer (s : State) (v : Phase) : (s.setPc v).buffer = s.buffer := rfl
@[simp] theorem State.setPc_clock (s : State) (v : Phase) : (s.setPc v).clock = s.clock := rfl
@[simp] theorem State.setPc_gpio (s : State) (v : Phase) : (s.setPc v).gpio = s.gpio := rfl
@[simp] theorem State.setPc_hostWord (s : State) (v : Phase) : (s.setPc v).hostWord = s.hostWord := rfl
@[simp] theorem State.setPc_result (s : State) (v : Phase) : (s.setPc v).result = s.result := rfl
@[simp] theorem State.setPc_draws (s : State) (v : Phase) : (s.setPc v).draws = s.draws := rfl
@[simp] theorem State.setPc_agenda (s : State) (v : Phase) : (s.setPc v).agenda = s.agenda := rfl

@[simp] theorem State.setCtrl_config (s : State) (v : Option ControllerState) : (s.setCtrl v).config = s.config := rfl
@[simp] theorem State.setCtrl_regs (s : State) (v : Option ControllerState) : (s.setCtrl v).regs = s.regs := rfl
@[simp] theorem State.setCtrl_fifo (s : State) (v : Option ControllerState) : (s.setCtrl v).fifo = s.fifo := rfl
@[simp] theorem State.setCtrl_ce (s : State) (v : Option ControllerState) : (s.setCtrl v).ce = s.ce := rfl
@[simp] theorem State.setCtrl_de (s : State) (v : Option ControllerState) : (s.setCtrl v).de = s.de := rfl
@[simp] theorem State.setCtrl_card (s : State) (v : Option ControllerState) : (s.setCtrl v).card = s.card := rfl
@[simp] theorem State.setCtrl_pc (s : State) (v : Option ControllerState) : (s.setCtrl v).pc = s.pc := rfl
@[simp] theorem State.setCtrl_ctrl (s : State) (v : Option ControllerState) : (s.setCtrl v).ctrl = v := rfl
@[simp] theorem State.setCtrl_session (s : State) (v : Option ControllerState) : (s.setCtrl v).session = s.session := rfl
@[simp] theorem State.setCtrl_buffer (s : State) (v : Option ControllerState) : (s.setCtrl v).buffer = s.buffer := rfl
@[simp] theorem State.setCtrl_clock (s : State) (v : Option ControllerState) : (s.setCtrl v).clock = s.clock := rfl
@[simp] theorem State.setCtrl_gpio (s : State) (v : Option ControllerState) : (s.setCtrl v).gpio = s.gpio := rfl
@[simp] theorem State.setCtrl_hostWord (s : State) (v : Option ControllerState) : (s.setCtrl v).hostWord = s.hostWord := rfl
@[simp] theorem State.setCtrl_result (s : State) (v : Option ControllerState) : (s.setCtrl v).result = s.result := rfl
@[simp] theorem State.setCtrl_draws (s : State) (v : Option ControllerState) : (s.setCtrl v).draws = s.draws := rfl
@[simp] theorem State.setCtrl_agenda (s : State) (v : Option ControllerState) : (s.setCtrl v).agenda = s.agenda := rfl

@[simp] theorem State.setSession_config (s : State) (v : Session) : (s.setSession v).config = s.config := rfl
@[simp] theorem State.setSession_regs (s : State) (v : Session) : (s.setSession v).regs = s.regs := rfl
@[simp] theorem State.setSession_fifo (s : State) (v : Session) : (s.setSession v).fifo = s.fifo := rfl
@[simp] theorem State.setSession_ce (s : State) (v : Session) : (s.setSession v).ce = s.ce := rfl
@[simp] theorem State.setSession_de (s : State) (v : Session) : (s.setSession v).de = s.de := rfl
@[simp] theorem State.setSession_card (s : State) (v : Session) : (s.setSession v).card = s.card := rfl
@[simp] theorem State.setSession_pc (s : State) (v : Session) : (s.setSession v).pc = s.pc := rfl
@[simp] theorem State.setSession_ctrl (s : State) (v : Session) : (s.setSession v).ctrl = s.ctrl := rfl
@[simp] theorem State.setSession_session (s : State) (v : Session) : (s.setSession v).session = v := rfl
@[simp] theorem State.setSession_buffer (s : State) (v : Session) : (s.setSession v).buffer = s.buffer := rfl
@[simp] theorem State.setSession_clock (s : State) (v : Session) : (s.setSession v).clock = s.clock := rfl
@[simp] theorem State.setSession_gpio (s : State) (v : Session) : (s.setSession v).gpio = s.gpio := rfl
@[simp] theorem State.setSession_hostWord (s : State) (v : Session) : (s.setSession v).hostWord = s.hostWord := rfl
@[simp] theorem State.setSession_result (s : State) (v : Session) : (s.setSession v).result = s.result := rfl
@[simp] theorem State.setSession_draws (s : State) (v : Session) : (s.setSession v).draws = s.draws := rfl
@[simp] theorem State.setSession_agenda (s : State) (v : Session) : (s.setSession v).agenda = s.agenda := rfl

@[simp] theorem State.setBuffer_config (s : State) (v : Memory) : (s.setBuffer v).config = s.config := rfl
@[simp] theorem State.setBuffer_regs (s : State) (v : Memory) : (s.setBuffer v).regs = s.regs := rfl
@[simp] theorem State.setBuffer_fifo (s : State) (v : Memory) : (s.setBuffer v).fifo = s.fifo := rfl
@[simp] theorem State.setBuffer_ce (s : State) (v : Memory) : (s.setBuffer v).ce = s.ce := rfl
@[simp] theorem State.setBuffer_de (s : State) (v : Memory) : (s.setBuffer v).de = s.de := rfl
@[simp] theorem State.setBuffer_card (s : State) (v : Memory) : (s.setBuffer v).card = s.card := rfl
@[simp] theorem State.setBuffer_pc (s : State) (v : Memory) : (s.setBuffer v).pc = s.pc := rfl
@[simp] theorem State.setBuffer_ctrl (s : State) (v : Memory) : (s.setBuffer v).ctrl = s.ctrl := rfl
@[simp] theorem State.setBuffer_session (s : State) (v : Memory) : (s.setBuffer v).session = s.session := rfl
@[simp] theorem State.setBuffer_buffer (s : State) (v : Memory) : (s.setBuffer v).buffer = v := rfl
@[simp] theorem State.setBuffer_clock (s : State) (v : Memory) : (s.setBuffer v).clock = s.clock := rfl
@[simp] theorem State.setBuffer_gpio (s : State) (v : Memory) : (s.setBuffer v).gpio = s.gpio := rfl
@[simp] theorem State.setBuffer_hostWord (s : State) (v : Memory) : (s.setBuffer v).hostWord = s.hostWord := rfl
@[simp] theorem State.setBuffer_result (s : State) (v : Memory) : (s.setBuffer v).result = s.result := rfl
@[simp] theorem State.setBuffer_draws (s : State) (v : Memory) : (s.setBuffer v).draws = s.draws := rfl
@[simp] theorem State.setBuffer_agenda (s : State) (v : Memory) : (s.setBuffer v).agenda = s.agenda := rfl

@[simp] theorem State.setClock_config (s : State) (v : ClockService) : (s.setClock v).config = s.config := rfl
@[simp] theorem State.setClock_regs (s : State) (v : ClockService) : (s.setClock v).regs = s.regs := rfl
@[simp] theorem State.setClock_fifo (s : State) (v : ClockService) : (s.setClock v).fifo = s.fifo := rfl
@[simp] theorem State.setClock_ce (s : State) (v : ClockService) : (s.setClock v).ce = s.ce := rfl
@[simp] theorem State.setClock_de (s : State) (v : ClockService) : (s.setClock v).de = s.de := rfl
@[simp] theorem State.setClock_card (s : State) (v : ClockService) : (s.setClock v).card = s.card := rfl
@[simp] theorem State.setClock_pc (s : State) (v : ClockService) : (s.setClock v).pc = s.pc := rfl
@[simp] theorem State.setClock_ctrl (s : State) (v : ClockService) : (s.setClock v).ctrl = s.ctrl := rfl
@[simp] theorem State.setClock_session (s : State) (v : ClockService) : (s.setClock v).session = s.session := rfl
@[simp] theorem State.setClock_buffer (s : State) (v : ClockService) : (s.setClock v).buffer = s.buffer := rfl
@[simp] theorem State.setClock_clock (s : State) (v : ClockService) : (s.setClock v).clock = v := rfl
@[simp] theorem State.setClock_gpio (s : State) (v : ClockService) : (s.setClock v).gpio = s.gpio := rfl
@[simp] theorem State.setClock_hostWord (s : State) (v : ClockService) : (s.setClock v).hostWord = s.hostWord := rfl
@[simp] theorem State.setClock_result (s : State) (v : ClockService) : (s.setClock v).result = s.result := rfl
@[simp] theorem State.setClock_draws (s : State) (v : ClockService) : (s.setClock v).draws = s.draws := rfl
@[simp] theorem State.setClock_agenda (s : State) (v : ClockService) : (s.setClock v).agenda = s.agenda := rfl

@[simp] theorem State.setGpio_config (s : State) (v : GpioService) : (s.setGpio v).config = s.config := rfl
@[simp] theorem State.setGpio_regs (s : State) (v : GpioService) : (s.setGpio v).regs = s.regs := rfl
@[simp] theorem State.setGpio_fifo (s : State) (v : GpioService) : (s.setGpio v).fifo = s.fifo := rfl
@[simp] theorem State.setGpio_ce (s : State) (v : GpioService) : (s.setGpio v).ce = s.ce := rfl
@[simp] theorem State.setGpio_de (s : State) (v : GpioService) : (s.setGpio v).de = s.de := rfl
@[simp] theorem State.setGpio_card (s : State) (v : GpioService) : (s.setGpio v).card = s.card := rfl
@[simp] theorem State.setGpio_pc (s : State) (v : GpioService) : (s.setGpio v).pc = s.pc := rfl
@[simp] theorem State.setGpio_ctrl (s : State) (v : GpioService) : (s.setGpio v).ctrl = s.ctrl := rfl
@[simp] theorem State.setGpio_session (s : State) (v : GpioService) : (s.setGpio v).session = s.session := rfl
@[simp] theorem State.setGpio_buffer (s : State) (v : GpioService) : (s.setGpio v).buffer = s.buffer := rfl
@[simp] theorem State.setGpio_clock (s : State) (v : GpioService) : (s.setGpio v).clock = s.clock := rfl
@[simp] theorem State.setGpio_gpio (s : State) (v : GpioService) : (s.setGpio v).gpio = v := rfl
@[simp] theorem State.setGpio_hostWord (s : State) (v : GpioService) : (s.setGpio v).hostWord = s.hostWord := rfl
@[simp] theorem State.setGpio_result (s : State) (v : GpioService) : (s.setGpio v).result = s.result := rfl
@[simp] theorem State.setGpio_draws (s : State) (v : GpioService) : (s.setGpio v).draws = s.draws := rfl
@[simp] theorem State.setGpio_agenda (s : State) (v : GpioService) : (s.setGpio v).agenda = s.agenda := rfl

@[simp] theorem State.setHostWord_config (s : State) (v : Word) : (s.setHostWord v).config = s.config := rfl
@[simp] theorem State.setHostWord_regs (s : State) (v : Word) : (s.setHostWord v).regs = s.regs := rfl
@[simp] theorem State.setHostWord_fifo (s : State) (v : Word) : (s.setHostWord v).fifo = s.fifo := rfl
@[simp] theorem State.setHostWord_ce (s : State) (v : Word) : (s.setHostWord v).ce = s.ce := rfl
@[simp] theorem State.setHostWord_de (s : State) (v : Word) : (s.setHostWord v).de = s.de := rfl
@[simp] theorem State.setHostWord_card (s : State) (v : Word) : (s.setHostWord v).card = s.card := rfl
@[simp] theorem State.setHostWord_pc (s : State) (v : Word) : (s.setHostWord v).pc = s.pc := rfl
@[simp] theorem State.setHostWord_ctrl (s : State) (v : Word) : (s.setHostWord v).ctrl = s.ctrl := rfl
@[simp] theorem State.setHostWord_session (s : State) (v : Word) : (s.setHostWord v).session = s.session := rfl
@[simp] theorem State.setHostWord_buffer (s : State) (v : Word) : (s.setHostWord v).buffer = s.buffer := rfl
@[simp] theorem State.setHostWord_clock (s : State) (v : Word) : (s.setHostWord v).clock = s.clock := rfl
@[simp] theorem State.setHostWord_gpio (s : State) (v : Word) : (s.setHostWord v).gpio = s.gpio := rfl
@[simp] theorem State.setHostWord_hostWord (s : State) (v : Word) : (s.setHostWord v).hostWord = v := rfl
@[simp] theorem State.setHostWord_result (s : State) (v : Word) : (s.setHostWord v).result = s.result := rfl
@[simp] theorem State.setHostWord_draws (s : State) (v : Word) : (s.setHostWord v).draws = s.draws := rfl
@[simp] theorem State.setHostWord_agenda (s : State) (v : Word) : (s.setHostWord v).agenda = s.agenda := rfl

@[simp] theorem State.setResult_config (s : State) (v : Option SessionResult) : (s.setResult v).config = s.config := rfl
@[simp] theorem State.setResult_regs (s : State) (v : Option SessionResult) : (s.setResult v).regs = s.regs := rfl
@[simp] theorem State.setResult_fifo (s : State) (v : Option SessionResult) : (s.setResult v).fifo = s.fifo := rfl
@[simp] theorem State.setResult_ce (s : State) (v : Option SessionResult) : (s.setResult v).ce = s.ce := rfl
@[simp] theorem State.setResult_de (s : State) (v : Option SessionResult) : (s.setResult v).de = s.de := rfl
@[simp] theorem State.setResult_card (s : State) (v : Option SessionResult) : (s.setResult v).card = s.card := rfl
@[simp] theorem State.setResult_pc (s : State) (v : Option SessionResult) : (s.setResult v).pc = s.pc := rfl
@[simp] theorem State.setResult_ctrl (s : State) (v : Option SessionResult) : (s.setResult v).ctrl = s.ctrl := rfl
@[simp] theorem State.setResult_session (s : State) (v : Option SessionResult) : (s.setResult v).session = s.session := rfl
@[simp] theorem State.setResult_buffer (s : State) (v : Option SessionResult) : (s.setResult v).buffer = s.buffer := rfl
@[simp] theorem State.setResult_clock (s : State) (v : Option SessionResult) : (s.setResult v).clock = s.clock := rfl
@[simp] theorem State.setResult_gpio (s : State) (v : Option SessionResult) : (s.setResult v).gpio = s.gpio := rfl
@[simp] theorem State.setResult_hostWord (s : State) (v : Option SessionResult) : (s.setResult v).hostWord = s.hostWord := rfl
@[simp] theorem State.setResult_result (s : State) (v : Option SessionResult) : (s.setResult v).result = v := rfl
@[simp] theorem State.setResult_draws (s : State) (v : Option SessionResult) : (s.setResult v).draws = s.draws := rfl
@[simp] theorem State.setResult_agenda (s : State) (v : Option SessionResult) : (s.setResult v).agenda = s.agenda := rfl

@[simp] theorem State.setDraws_config (s : State) (v : Nat) : (s.setDraws v).config = s.config := rfl
@[simp] theorem State.setDraws_regs (s : State) (v : Nat) : (s.setDraws v).regs = s.regs := rfl
@[simp] theorem State.setDraws_fifo (s : State) (v : Nat) : (s.setDraws v).fifo = s.fifo := rfl
@[simp] theorem State.setDraws_ce (s : State) (v : Nat) : (s.setDraws v).ce = s.ce := rfl
@[simp] theorem State.setDraws_de (s : State) (v : Nat) : (s.setDraws v).de = s.de := rfl
@[simp] theorem State.setDraws_card (s : State) (v : Nat) : (s.setDraws v).card = s.card := rfl
@[simp] theorem State.setDraws_pc (s : State) (v : Nat) : (s.setDraws v).pc = s.pc := rfl
@[simp] theorem State.setDraws_ctrl (s : State) (v : Nat) : (s.setDraws v).ctrl = s.ctrl := rfl
@[simp] theorem State.setDraws_session (s : State) (v : Nat) : (s.setDraws v).session = s.session := rfl
@[simp] theorem State.setDraws_buffer (s : State) (v : Nat) : (s.setDraws v).buffer = s.buffer := rfl
@[simp] theorem State.setDraws_clock (s : State) (v : Nat) : (s.setDraws v).clock = s.clock := rfl
@[simp] theorem State.setDraws_gpio (s : State) (v : Nat) : (s.setDraws v).gpio = s.gpio := rfl
@[simp] theorem State.setDraws_hostWord (s : State) (v : Nat) : (s.setDraws v).hostWord = s.hostWord := rfl
@[simp] theorem State.setDraws_result (s : State) (v : Nat) : (s.setDraws v).result = s.result := rfl
@[simp] theorem State.setDraws_draws (s : State) (v : Nat) : (s.setDraws v).draws = v := rfl
@[simp] theorem State.setDraws_agenda (s : State) (v : Nat) : (s.setDraws v).agenda = s.agenda := rfl

@[simp] theorem State.setAgenda_config (s : State) (v : List Slot) : (s.setAgenda v).config = s.config := rfl
@[simp] theorem State.setAgenda_regs (s : State) (v : List Slot) : (s.setAgenda v).regs = s.regs := rfl
@[simp] theorem State.setAgenda_fifo (s : State) (v : List Slot) : (s.setAgenda v).fifo = s.fifo := rfl
@[simp] theorem State.setAgenda_ce (s : State) (v : List Slot) : (s.setAgenda v).ce = s.ce := rfl
@[simp] theorem State.setAgenda_de (s : State) (v : List Slot) : (s.setAgenda v).de = s.de := rfl
@[simp] theorem State.setAgenda_card (s : State) (v : List Slot) : (s.setAgenda v).card = s.card := rfl
@[simp] theorem State.setAgenda_pc (s : State) (v : List Slot) : (s.setAgenda v).pc = s.pc := rfl
@[simp] theorem State.setAgenda_ctrl (s : State) (v : List Slot) : (s.setAgenda v).ctrl = s.ctrl := rfl
@[simp] theorem State.setAgenda_session (s : State) (v : List Slot) : (s.setAgenda v).session = s.session := rfl
@[simp] theorem State.setAgenda_buffer (s : State) (v : List Slot) : (s.setAgenda v).buffer = s.buffer := rfl
@[simp] theorem State.setAgenda_clock (s : State) (v : List Slot) : (s.setAgenda v).clock = s.clock := rfl
@[simp] theorem State.setAgenda_gpio (s : State) (v : List Slot) : (s.setAgenda v).gpio = s.gpio := rfl
@[simp] theorem State.setAgenda_hostWord (s : State) (v : List Slot) : (s.setAgenda v).hostWord = s.hostWord := rfl
@[simp] theorem State.setAgenda_result (s : State) (v : List Slot) : (s.setAgenda v).result = s.result := rfl
@[simp] theorem State.setAgenda_draws (s : State) (v : List Slot) : (s.setAgenda v).draws = s.draws := rfl
@[simp] theorem State.setAgenda_agenda (s : State) (v : List Slot) : (s.setAgenda v).agenda = v := rfl

end Sys2Proof.Machine
end

