-- ==== Sys2Proof/Laws/Memory.lean ====
section
/-! SUPPORT. The caller buffer: a read after a write, the canonical form, and the little-endian words over both. -/

namespace Sys2Proof.Machine

@[simp] theorem readByte_nil (a : Nat) : readByte [] a = Config.unlistedByte := rfl

theorem readByte_cons (k : Nat) (b : Byte) (m : Memory) (a : Nat) :
    readByte ((k, b) :: m) a = if k = a then b else readByte m a := rfl

theorem Memory.wfFrom_cons {lo k : Nat} {b : Byte} {m : Memory} :
    Memory.wfFrom lo ((k, b) :: m) = true ↔ lo ≤ k ∧ b ≠ Config.unlistedByte ∧ Memory.wfFrom (k + 1) m = true := by
  simp [Memory.wfFrom, and_assoc]

theorem Memory.wfFrom_mono {lo lo' : Nat} {m : Memory} (hle : lo' ≤ lo) (h : Memory.wfFrom lo m = true) :
    Memory.wfFrom lo' m = true := by
  cases m with
  | nil => rfl
  | cons c m =>
    obtain ⟨k, b⟩ := c
    rw [Memory.wfFrom_cons] at h ⊢
    exact ⟨hle.trans h.1, h.2⟩

/-- Below the first listed offset everything is unlisted. -/
theorem readByte_below {lo a : Nat} {m : Memory} (h : Memory.wfFrom lo m = true) (ha : a < lo) :
    readByte m a = Config.unlistedByte := by
  induction m generalizing lo with
  | nil => rfl
  | cons c m ih =>
    obtain ⟨k, b⟩ := c
    obtain ⟨hk, -, hm⟩ := Memory.wfFrom_cons.mp h
    rw [readByte_cons, if_neg (by omega)]
    exact ih hm (by omega)

/-- A write keeps the canonical form. -/
theorem wfFrom_writeByte {lo a : Nat} {m : Memory} (v : Byte) (h : Memory.wfFrom lo m = true) (ha : lo ≤ a) :
    Memory.wfFrom lo (writeByte m a v) = true := by
  induction m generalizing lo with
  | nil =>
    unfold writeByte
    split
    · rfl
    · next hv => exact Memory.wfFrom_cons.mpr ⟨ha, hv, rfl⟩
  | cons c m ih =>
    obtain ⟨k, b⟩ := c
    obtain ⟨hk, hb, hm⟩ := Memory.wfFrom_cons.mp h
    unfold writeByte
    split
    · next hak =>
      split
      · exact h
      · next hv => exact Memory.wfFrom_cons.mpr ⟨ha, hv, Memory.wfFrom_cons.mpr ⟨hak, hb, hm⟩⟩
    · split
      · next hak =>
        subst hak
        split
        · exact Memory.wfFrom_mono (by omega) hm
        · next hv => exact Memory.wfFrom_cons.mpr ⟨ha, hv, hm⟩
      · exact Memory.wfFrom_cons.mpr ⟨hk, hb, ih hm (by omega)⟩

/-- Every memory operation keeps the canonical form: one byte. -/
theorem wf_writeByte {m : Memory} (a : Nat) (v : Byte) (h : m.wf = true) : (writeByte m a v).wf = true :=
  wfFrom_writeByte v h (Nat.zero_le a)

/-- Every memory operation keeps the canonical form: one word. -/
theorem wf_bufWrite32 {m : Memory} (off : Nat) (w : Word) (h : m.wf = true) : (bufWrite32 m off w).wf = true :=
  wf_writeByte _ _ (wf_writeByte _ _ (wf_writeByte _ _ (wf_writeByte _ _ h)))

theorem readByte_writeByte_from {lo a : Nat} {m : Memory} (v : Byte) (h : Memory.wfFrom lo m = true) :
    readByte (writeByte m a v) a = v := by
  induction m generalizing lo with
  | nil =>
    unfold writeByte
    split
    · next hv => simp [hv]
    · simp [readByte_cons]
  | cons c m ih =>
    obtain ⟨k, b⟩ := c
    obtain ⟨hk, hb, hm⟩ := Memory.wfFrom_cons.mp h
    unfold writeByte
    split
    · next hak =>
      split
      · next hv =>
        rw [readByte_cons, if_neg (by omega), readByte_below hm (by omega), hv]
      · simp [readByte_cons]
    · split
      · next hak =>
        subst hak
        split
        · next hv => rw [readByte_below hm (by omega), hv]
        · simp [readByte_cons]
      · next hak => rw [readByte_cons, if_neg (by omega)]; exact ih hm

/-- A read after a write to the same offset gives the byte written. -/
theorem readByte_writeByte_same {m : Memory} (a : Nat) (v : Byte) (h : m.wf = true) :
    readByte (writeByte m a v) a = v := readByte_writeByte_from v h

/-- A write leaves every other offset alone. -/
theorem readByte_writeByte_other {m : Memory} {a b : Nat} (v : Byte) (hab : b ≠ a) :
    readByte (writeByte m a v) b = readByte m b := by
  induction m with
  | nil =>
    unfold writeByte
    split
    · rfl
    · rw [readByte_cons, if_neg (Ne.symm hab)]
  | cons c m ih =>
    obtain ⟨k, c⟩ := c
    unfold writeByte
    split
    · split
      · rfl
      · rw [readByte_cons, if_neg (Ne.symm hab)]
    · split
      · next hak =>
        subst hak
        split
        · rw [readByte_cons, if_neg (Ne.symm hab)]
        · rw [readByte_cons, readByte_cons, if_neg (Ne.symm hab), if_neg (Ne.symm hab)]
      · rw [readByte_cons, readByte_cons, ih]

/-- A word write stores its four bytes, lowest first (R86). -/
theorem readByte_bufWrite32_inside {m : Memory} (off : Nat) (w : Word) {k : Nat} (hk : k < 4) (h : m.wf = true) :
    readByte (bufWrite32 m off w) (off + k) = byteOf w k := by
  unfold bufWrite32
  have h0 := wf_writeByte off (byteOf w 0) h
  have h1 := wf_writeByte (off + 1) (byteOf w 1) h0
  have h2 := wf_writeByte (off + 2) (byteOf w 2) h1
  rcases k with _ | _ | _ | _ | k
  · rw [readByte_writeByte_other _ (by omega), readByte_writeByte_other _ (by omega),
      readByte_writeByte_other _ (by omega)]
    exact readByte_writeByte_same _ _ h
  · rw [readByte_writeByte_other _ (by omega), readByte_writeByte_other _ (by omega)]
    exact readByte_writeByte_same _ _ h0
  · rw [readByte_writeByte_other _ (by omega)]
    exact readByte_writeByte_same _ _ h1
  · exact readByte_writeByte_same _ _ h2
  · omega

/-- A word write leaves every byte outside its four alone. -/
theorem readByte_bufWrite32_outside {m : Memory} (off : Nat) (w : Word) {a : Nat} (ha : a < off ∨ off + 4 ≤ a) :
    readByte (bufWrite32 m off w) a = readByte m a := by
  unfold bufWrite32
  rw [readByte_writeByte_other _ (by omega), readByte_writeByte_other _ (by omega),
    readByte_writeByte_other _ (by omega), readByte_writeByte_other _ (by omega)]

theorem byteOf_wordOfBytes (b0 b1 b2 b3 : Byte) :
    byteOf (wordOfBytes b0 b1 b2 b3) 0 = b0 ∧ byteOf (wordOfBytes b0 b1 b2 b3) 1 = b1 ∧
      byteOf (wordOfBytes b0 b1 b2 b3) 2 = b2 ∧ byteOf (wordOfBytes b0 b1 b2 b3) 3 = b3 := by
  refine ⟨?_, ?_, ?_, ?_⟩ <;>
    · apply BitVec.eq_of_getLsbD_eq
      intro i hi
      interval_cases i <;> simp [byteOf, wordOfBytes]

/-- The bytes of a word make the word again. -/
theorem wordOfBytes_byteOf (w : Word) : wordOfBytes (byteOf w 0) (byteOf w 1) (byteOf w 2) (byteOf w 3) = w := by
  apply BitVec.eq_of_getLsbD_eq
  intro i hi
  interval_cases i <;> simp [byteOf, wordOfBytes]

/-- A word read after a word write at the same offset gives the word written. -/
theorem bufRead32_bufWrite32 {m : Memory} (off : Nat) (w : Word) (h : m.wf = true) :
    bufRead32 (bufWrite32 m off w) off = w := by
  have hb := fun k (hk : k < 4) => readByte_bufWrite32_inside off w hk h
  unfold bufRead32
  rw [show readByte (bufWrite32 m off w) off = byteOf w 0 from hb 0 (by omega), hb 1 (by omega), hb 2 (by omega),
    hb 3 (by omega)]
  exact wordOfBytes_byteOf w

end Sys2Proof.Machine
end

