-- ==== Sys2Proof/Laws/Words.lean ====
section
/-! SUPPORT. The fields of a word, for every layout: the bits of each bit-field helper, and, said once for every register, what
the fields of a word assembled from disjoint fields read as. -/

namespace Sys2Proof.Machine

open Sys2Proof

/-! ## Bits of the helpers -/

/-- Two words with the same 32 bits are equal. -/
theorem word_ext {a b : Word} (h : ∀ n, n < 32 → a.getLsbD n = b.getLsbD n) : a = b := BitVec.eq_of_getLsbD_eq h

theorem getLsbD_lowMask (n i : Nat) : (lowMask n).getLsbD i = (decide (i < 32) && decide (i < n)) := by
  simp [lowMask, BitVec.getLsbD_ofNat, Nat.testBit_two_pow_sub_one]

theorem getLsbD_clip (f : Field) (v : Word) (i : Nat) : (f.clip v).getLsbD i = (v.getLsbD i && decide (i < f.width)) := by
  rw [Field.clip, BitVec.getLsbD_and, getLsbD_lowMask]
  by_cases h : i < 32
  · simp [h]
  · simp [BitVec.getLsbD_of_ge v i (by omega)]

theorem getLsbD_get (f : Field) (w : Word) (i : Nat) :
    (f.get w).getLsbD i = (w.getLsbD (f.lo + i) && decide (i < f.width)) := by
  rw [Field.get, getLsbD_clip, BitVec.getLsbD_ushiftRight]

theorem getLsbD_put (f : Field) (v : Word) (n : Nat) (hn : n < 32) :
    (f.put v).getLsbD n = (decide (f.lo ≤ n ∧ n < f.lo + f.width) && v.getLsbD (n - f.lo)) := by
  rw [Field.put, BitVec.getLsbD_shiftLeft, getLsbD_clip]
  by_cases h : n < f.lo
  · simp [h, Nat.not_le_of_lt h]
  · have h1 : f.lo ≤ n := by omega
    have h2 : decide (n - f.lo < f.width) = decide (n < f.lo + f.width) := by
      by_cases h3 : n < f.lo + f.width
      · simp [h3]; omega
      · simp [h3]; omega
    simp [hn, h, h1, h2, Bool.and_comm]

theorem getLsbD_mask (f : Field) (n : Nat) (hn : n < 32) :
    f.mask.getLsbD n = decide (f.lo ≤ n ∧ n < f.lo + f.width) := by
  rw [Field.mask, BitVec.getLsbD_shiftLeft, getLsbD_lowMask]
  by_cases h : n < f.lo
  · simp [h, Nat.not_le_of_lt h]
  · have h1 : f.lo ≤ n := by omega
    have h2 : decide (n - f.lo < f.width) = decide (n < f.lo + f.width) := by
      by_cases h3 : n < f.lo + f.width
      · simp [h3]; omega
      · simp [h3]; omega
    have h3 : n - f.lo < 32 := by omega
    simp [hn, h, h1, h2, h3]

theorem getLsbD_maskOf (fs : List Field) (n : Nat) (hn : n < 32) :
    (maskOf fs).getLsbD n = fs.any fun f => decide (f.lo ≤ n ∧ n < f.lo + f.width) := by
  induction fs with
  | nil => simp [maskOf]
  | cons f fs ih => rw [maskOf, BitVec.getLsbD_or, getLsbD_mask f n hn, ih, List.any_cons]

theorem getLsbD_wordOf (l : List (Field × Word)) (n : Nat) (hn : n < 32) :
    (wordOf l).getLsbD n =
      l.any fun fv => decide (fv.1.lo ≤ n ∧ n < fv.1.lo + fv.1.width) && fv.2.getLsbD (n - fv.1.lo) := by
  induction l with
  | nil => simp [wordOf]
  | cons fv l ih => rw [wordOf, BitVec.getLsbD_or, getLsbD_put fv.1 fv.2 n hn, ih, List.any_cons]

@[simp] theorem getLsbD_ofFlag_zero (b : Bool) : (ofFlag b).getLsbD 0 = b := by cases b <;> rfl

theorem bitAt_eq_getLsbD (w : Word) (n : Nat) : bitAt w n = w.getLsbD n := rfl

/-- A one-bit field is a bit. -/
theorem bitAt_eq_get (w : Word) (n : Nat) : bitAt w n = ((flag n).get w).getLsbD 0 := by
  rw [getLsbD_get]; simp [flag, bitAt]

theorem bitWord_eq_wordOf (n : Nat) (b : Bool) : bitWord n b = wordOf [(flag n, ofFlag b)] := by
  cases b <;> simp [bitWord, wordOf, Field.put, Field.clip, flag, lowMask, ofFlag]

/-! ## Values and their width -/

@[simp] theorem clip_clip (f : Field) (v : Word) : f.clip (f.clip v) = f.clip v := by
  apply word_ext; intro n _; simp [getLsbD_clip]

@[simp] theorem clip_get (f : Field) (w : Word) : f.clip (f.get w) = f.get w := by rw [Field.get, clip_clip]

/-- A value no wider than its field is not cut. -/
theorem clip_of_lt {f : Field} {v : Word} (h : ∀ i, f.width ≤ i → v.getLsbD i = false) : f.clip v = v := by
  apply word_ext
  intro n _
  rw [getLsbD_clip]
  by_cases hn : n < f.width
  · simp [hn]
  · simp [hn, h n (by omega)]

/-- A number no larger than the field's maximum is not cut. -/
theorem clip_ofNat {f : Field} {n : Nat} (h : n ≤ f.max) : f.clip (BitVec.ofNat 32 n) = BitVec.ofNat 32 n := by
  apply clip_of_lt
  intro i hi
  rw [BitVec.getLsbD_ofNat]
  have h1 : n < 2 ^ f.width := by
    have : 0 < 2 ^ f.width := Nat.two_pow_pos _
    simp only [Field.max] at h; omega
  rw [Nat.testBit_lt_two_pow (Nat.lt_of_lt_of_le h1 (Nat.pow_le_pow_right (by decide) hi))]
  simp

/-- A bit vector in a field of its own width is not cut. -/
theorem clip_setWidth {f : Field} {k : Nat} (v : BitVec k) (h : k ≤ f.width) : f.clip (v.setWidth 32) = v.setWidth 32 := by
  apply clip_of_lt
  intro i hi
  simp [BitVec.getLsbD_of_ge v i (by omega)]

@[simp] theorem clip_ofFlag (n : Nat) (b : Bool) : (flag n).clip (ofFlag b) = ofFlag b := by
  cases b <;> simp [flag, Field.clip, ofFlag, lowMask]

/-! ## Words assembled from disjoint fields -/

/-- In a word assembled from disjoint fields each field reads as its value. -/
theorem get_wordOf {l : List (Field × Word)} {fs : List Field} (h : Fits fs) (he : l.map Prod.fst = fs) {f : Field}
    {v : Word} (hm : (f, v) ∈ l) : f.get (wordOf l) = f.clip v := by
  subst he
  apply word_ext
  intro i _
  rw [getLsbD_get, getLsbD_clip]
  by_cases hi : i < f.width
  · have hin : f.lo + f.width ≤ 32 := h.inside f (List.mem_map.mpr ⟨_, hm, rfl⟩)
    rw [getLsbD_wordOf l (f.lo + i) (by omega)]
    have hap := h.apart
    clear h
    induction l with
    | nil => simp at hm
    | cons gw l ih =>
      obtain ⟨g, w⟩ := gw
      simp only [List.map_cons, List.pairwise_cons] at hap
      rcases List.mem_cons.mp hm with he | hm'
      · cases he
        have hrest : (l.any fun fv => decide (fv.1.lo ≤ f.lo + i ∧ f.lo + i < fv.1.lo + fv.1.width) &&
            fv.2.getLsbD (f.lo + i - fv.1.lo)) = false := by
          rw [List.any_eq_false]
          intro gw hgw
          have := hap.1 gw.1 (List.mem_map.mpr ⟨gw, hgw, rfl⟩)
          have : ¬ (gw.1.lo ≤ f.lo + i ∧ f.lo + i < gw.1.lo + gw.1.width) := by omega
          simp [this]
        rw [List.any_cons, hrest]
        have : (f.lo ≤ f.lo + i ∧ f.lo + i < f.lo + f.width) := by omega
        simp [this, hi]
      · have := hap.1 f (List.mem_map.mpr ⟨_, hm', rfl⟩)
        have hno : ¬ (g.lo ≤ f.lo + i ∧ f.lo + i < g.lo + g.width) := by omega
        rw [List.any_cons]
        simpa [hno] using ih hm' hap.2
  · simp [hi]

/-- One field of a word. -/
theorem get_put {f : Field} (h : f.lo + f.width ≤ 32) (v : Word) : f.get (f.put v) = f.clip v := by
  have e : f.put v = wordOf [(f, v)] := by simp [wordOf]
  rw [e]
  exact get_wordOf (fs := [f]) ⟨by simpa using h, by simp⟩ rfl (by simp)

/-- In a word assembled from disjoint fields each flag reads as its value. -/
theorem bitAt_wordOf {l : List (Field × Word)} {fs : List Field} (h : Fits fs) (he : l.map Prod.fst = fs) {n : Nat}
    {b : Bool} (hm : (flag n, ofFlag b) ∈ l) : bitAt (wordOf l) n = b := by
  rw [bitAt_eq_get, get_wordOf h he hm, clip_ofFlag, getLsbD_ofFlag_zero]

/-- The bits outside the fields are 0. -/
theorem wordOf_unnamed (l : List (Field × Word)) : wordOf l &&& ~~~maskOf (l.map Prod.fst) = 0#32 := by
  apply word_ext
  intro n hn
  rw [BitVec.getLsbD_and, BitVec.getLsbD_not, getLsbD_wordOf l n hn, getLsbD_maskOf _ n hn, List.any_map]
  cases hany : l.any (fun fv => decide (fv.1.lo ≤ n ∧ n < fv.1.lo + fv.1.width) && fv.2.getLsbD (n - fv.1.lo)) with
  | false => simp
  | true =>
    obtain ⟨fv, hm, hv⟩ := List.any_eq_true.mp hany
    have : (l.any ((fun f => decide (f.lo ≤ n ∧ n < f.lo + f.width)) ∘ Prod.fst)) = true :=
      List.any_eq_true.mpr ⟨fv, hm, by simp only [Bool.and_eq_true] at hv; simpa using hv.1⟩
    rw [this]; simp

/-- A bit outside the fields is 0. -/
theorem bitAt_wordOf_unnamed {l : List (Field × Word)} {n : Nat}
    (h : ∀ fv ∈ l, ¬ (fv.1.lo ≤ n ∧ n < fv.1.lo + fv.1.width)) : bitAt (wordOf l) n = false := by
  by_cases hn : n < 32
  · rw [bitAt, getLsbD_wordOf l n hn, List.any_eq_false]
    intro fv hm
    have := h fv hm
    simp [this]
  · exact BitVec.getLsbD_of_ge _ _ (by omega)

/-- A word whose unnamed bits are 0 is what its fields say. -/
theorem eq_wordOf {w : Word} {fs : List Field} (h : w &&& ~~~maskOf fs = 0#32) :
    w = wordOf (fs.map fun f => (f, f.get w)) := by
  apply word_ext
  intro n hn
  rw [getLsbD_wordOf _ n hn, List.any_map]
  have hb := congrArg (fun v => v.getLsbD n) h
  simp only [BitVec.getLsbD_and, BitVec.getLsbD_not, getLsbD_maskOf fs n hn, hn, decide_true, Bool.true_and] at hb
  cases hw : w.getLsbD n with
  | false =>
    symm
    rw [List.any_eq_false]
    intro f _
    simp only [Function.comp]
    by_cases hf : f.lo ≤ n ∧ n < f.lo + f.width
    · have e : f.lo + (n - f.lo) = n := by omega
      simp [getLsbD_get, e, hw]
    · simp [hf]
  | true =>
    rw [hw] at hb
    have hany : (fs.any fun f => decide (f.lo ≤ n ∧ n < f.lo + f.width)) = true := by simpa using hb
    obtain ⟨f, hm, hf⟩ := List.any_eq_true.mp hany
    symm
    rw [List.any_eq_true]
    refine ⟨f, hm, ?_⟩
    have hf' : f.lo ≤ n ∧ n < f.lo + f.width := by simpa using hf
    have e : f.lo + (n - f.lo) = n := by omega
    have e2 : n - f.lo < f.width := by omega
    simp [getLsbD_get, e, e2, hw, hf']

/-- The value of a flag is its bit. -/
theorem get_flag (w : Word) (n : Nat) : (flag n).get w = ofFlag (bitAt w n) := by
  apply word_ext
  intro i hi
  rw [getLsbD_get]
  cases i with
  | zero => rw [getLsbD_ofFlag_zero]; simp [flag, bitAt]
  | succ i =>
    have : (ofFlag (bitAt w n)).getLsbD (i + 1) = false := by
      cases bitAt w n <;> simp [ofFlag, BitVec.getLsbD_one]
    rw [this]; simp [flag]

/-! ## Reads with a draw -/

/-- A bit under the mask is the named word's. -/
theorem getLsbD_mergeDraw (mask named drawn : Word) (i : Nat) :
    (mergeDraw mask named drawn).getLsbD i =
      if mask.getLsbD i then named.getLsbD i else drawn.getLsbD i := by
  unfold mergeDraw
  simp only [BitVec.getLsbD_or, BitVec.getLsbD_and, BitVec.getLsbD_not]
  by_cases hi : i < 32
  · cases mask.getLsbD i <;> simp [hi]
  · simp [BitVec.getLsbD_of_ge _ _ (Nat.le_of_not_lt hi)]

/-- The named part of what a read returns. -/
theorem mergeDraw_and_mask (mask named drawn : Word) : mergeDraw mask named drawn &&& mask = named &&& mask := by
  apply word_ext
  intro i _
  rw [BitVec.getLsbD_and, getLsbD_mergeDraw, BitVec.getLsbD_and]
  cases mask.getLsbD i <;> simp

/-- The unnamed part is the drawn word's. -/
theorem mergeDraw_and_not_mask (mask named drawn : Word) :
    mergeDraw mask named drawn &&& ~~~mask = drawn &&& ~~~mask := by
  apply word_ext
  intro i hi
  rw [BitVec.getLsbD_and, getLsbD_mergeDraw, BitVec.getLsbD_and, BitVec.getLsbD_not]
  cases mask.getLsbD i <;> simp [hi]

/-- A read with no named bit returns the drawn word. -/
theorem mergeDraw_nothing_named (drawn : Word) : mergeDraw 0#32 0#32 drawn = drawn := by
  apply word_ext
  intro i _
  simp [getLsbD_mergeDraw]

/-- A named field of a word read is the field of the named word. -/
theorem get_mergeDraw {fs : List Field} {f : Field} (hm : f ∈ fs) (hin : f.lo + f.width ≤ 32) (a d : Word) :
    f.get (mergeDraw (maskOf fs) a d) = f.get a := by
  apply word_ext
  intro i _
  rw [getLsbD_get, getLsbD_get, getLsbD_mergeDraw]
  by_cases hi : i < f.width
  · rw [getLsbD_maskOf fs _ (by omega)]
    have : (fs.any fun g => decide (g.lo ≤ f.lo + i ∧ f.lo + i < g.lo + g.width)) = true :=
      List.any_eq_true.mpr ⟨f, hm, by have : (f.lo ≤ f.lo + i ∧ f.lo + i < f.lo + f.width) := by omega
                                      simpa using this⟩
    rw [if_pos this]
  · simp [hi]

/-- A named flag of a word read is the flag of the named word. -/
theorem bitAt_mergeDraw {fs : List Field} {n : Nat} (hm : flag n ∈ fs) (hn : n < 32) (a d : Word) :
    bitAt (mergeDraw (maskOf fs) a d) n = bitAt a n := by
  rw [bitAt_eq_get, bitAt_eq_get a, get_mergeDraw hm (by simpa [flag] using hn)]

/-- The mask of one field. -/
theorem mask_eq_maskOf (f : Field) : f.mask = maskOf [f] := by simp [maskOf]

end Sys2Proof.Machine
end

