-- ==== Sys2Proof/Laws/Ops.lean ====
section
/-! SUPPORT. What each shared operation can do, said once: the answer as an equation where there is only one, and where
there are several an inversion lemma, "if it answers next, then ...". Later proofs cite these. -/

namespace Sys2Proof.Machine

open Host

/-! ## Outcomes -/

@[simp] theorem next_inj {s t : State} : (Outcome.next s : Result) = .next t ↔ s = t :=
  ⟨fun h => by cases h; rfl, fun h => by rw [h]⟩

@[simp] theorem refused_ne_next {why : Refusal} {t : State} : ((Outcome.refused why : Result) = .next t) ↔ False :=
  ⟨(fun h => by cases h), False.elim⟩

@[simp] theorem fault_ne_next {why : Fault} {t : State} : ((Outcome.fault why : Result) = .next t) ↔ False :=
  ⟨(fun h => by cases h), False.elim⟩

@[simp] theorem next_ne_fault {why : Fault} {t : State} : ((Outcome.next t : Result) = .fault why) ↔ False :=
  ⟨(fun h => by cases h), False.elim⟩

@[simp] theorem refused_ne_fault {why : Refusal} {f : Fault} : ((Outcome.refused why : Result) = .fault f) ↔ False :=
  ⟨(fun h => by cases h), False.elim⟩

/-! ## Host reads -/

theorem readWithDraw_next {mask named : Word} {s t : State} (h : readWithDraw mask named s = .next t) :
    t = (s.setHostWord (mergeDraw mask named (Config.freeWord s.draws))).setDraws (s.draws + 1) := by
  simpa [readWithDraw] using h.symm

theorem readWhole_next {w : Word} {s t : State} (h : readWhole w s = .next t) : t = s.setHostWord w := by
  simpa [readWhole] using h.symm

theorem readResponseRegister_next {r : Option Word} {s t : State} (h : readResponseRegister r s = .next t) :
    (∃ w, r = some w ∧ t = s.setHostWord w) ∨
      (r = none ∧ t = (s.setHostWord (Config.freeWord s.draws)).setDraws (s.draws + 1)) := by
  cases r with
  | some w => exact .inl ⟨w, rfl, readWhole_next h⟩
  | none =>
    refine .inr ⟨rfl, ?_⟩
    have := readWithDraw_next h
    rwa [mergeDraw_nothing_named] at this

/-- A read of a response register changes the host word and the count of draws at most. -/
theorem readResponseRegister_keeps {r : Option Word} {s t : State} (h : readResponseRegister r s = .next t) :
    ∃ v n, t = (s.setHostWord v).setDraws n := by
  rcases readResponseRegister_next h with ⟨w, _, rfl⟩ | ⟨_, rfl⟩
  · exact ⟨w, s.draws, rfl⟩
  · exact ⟨_, _, rfl⟩

/-! ## The FIFO -/

theorem fifoPop_next {s t : State} (h : fifoPop s = .next t) :
    ∃ b0 b1 b2 b3 rest, s.fifo = b0 :: b1 :: b2 :: b3 :: rest ∧
      t = (s.setFifo rest).setHostWord (wordOfBytes b0 b1 b2 b3) := by
  unfold fifoPop at h
  split at h
  · next b0 b1 b2 b3 rest hf => exact ⟨b0, b1, b2, b3, rest, hf, by simpa using h.symm⟩
  · simp at h

theorem fifoPop_cons {s : State} {b0 b1 b2 b3 : Byte} {rest : List Byte} (h : s.fifo = b0 :: b1 :: b2 :: b3 :: rest) :
    fifoPop s = .next ((s.setFifo rest).setHostWord (wordOfBytes b0 b1 b2 b3)) := by
  unfold fifoPop; rw [h]

/-- The four bytes a word is pushed as (R87). -/
abbrev bytesOf (v : Word) : List Byte := [byteOf v 0, byteOf v 1, byteOf v 2, byteOf v 3]

theorem fifoPush_next {v : Word} {s t : State} (h : fifoPush v s = .next t) :
    s.fifo.length + 4 ≤ s.config.fifoDepth ∧ t = s.setFifo (s.fifo ++ bytesOf v) := by
  unfold fifoPush at h
  split at h
  · next hl => exact ⟨hl, by simpa using h.symm⟩
  · simp at h

theorem fifoPush_room {v : Word} {s : State} (h : s.fifo.length + 4 ≤ s.config.fifoDepth) :
    fifoPush v s = .next (s.setFifo (s.fifo ++ bytesOf v)) := by
  unfold fifoPush; rw [if_pos h]

/-! ## Control words -/

theorem configure_next {c f : Bool} {s t : State} (h : configure c f s = .next t) :
    (f = false ∧ t = s.setRegs { s.regs with clktype := c }) ∨
      (f = true ∧ (∀ dir left, s.de ≠ .active dir left) ∧
        t = (s.setRegs { s.regs with clktype := c }).setFifo []) := by
  unfold configure at h
  cases f with
  | false => exact .inl ⟨rfl, by simpa using h.symm⟩
  | true =>
    simp only [if_true] at h
    split at h
    · simp at h
    · next hde => exact .inr ⟨rfl, fun dir left hd => hde dir left hd, by simpa using h.symm⟩

theorem armCommand_next {index : BitVec 6} {wait long : Bool} {s t : State} (h : armCommand index wait long s = .next t) :
    s.ce = .idle ∧
      t = (storeCcon ⟨index, true, wait, long⟩ s).setCe (.sending index s.regs.carg wait long) := by
  unfold armCommand at h
  split at h
  · next hce => exact ⟨hce, by simpa using h.symm⟩
  · simp at h

theorem armData_next {dir : Direction} {blknum : BitVec 11} {widebus : Bool} {s t : State}
    (h : armData dir blknum widebus s = .next t) :
    s.de = .idle ∧ blknum ≠ 0#11 ∧ s.regs.bsize ≠ 0#32 ∧
      t = (s.setRegs { s.regs with dcon := armingFields s.config.layout.dcon dir blknum widebus }).setDe
        (.armed dir (s.regs.bsize.toNat * blknum.toNat)) := by
  unfold armData at h
  split at h
  · next hde =>
    split at h
    · simp at h
    · next hz =>
      rw [not_or] at hz
      exact ⟨hde, hz.1, hz.2, by simpa using h.symm⟩
  · simp at h

/-! ## Events -/

theorem dataErrorEvent_next {flags : DstaFlags} {stops : Bool} {s t : State}
    (h : dataErrorEvent flags stops s = .next t) :
    ∃ dir left, s.de = .active dir left ∧
      t = (s.setRegs { s.regs with dsta := flags }).setDe (if stops then .err else .active dir left) := by
  unfold dataErrorEvent at h
  split at h
  · next dir left hde => exact ⟨dir, left, hde, by simpa using h.symm⟩
  · simp at h

theorem startPhase_cases (dir : Direction) (de : DataEngine) :
    (∃ total, de = .armed dir total ∧ startPhase dir de = .active dir total) ∨
      ((∀ total, de ≠ .armed dir total) ∧ startPhase dir de = de) := by
  cases de with
  | armed d total =>
    by_cases hd : d = dir
    · subst hd; exact .inl ⟨total, rfl, by simp [startPhase]⟩
    · refine .inr ⟨fun n hn => hd (by cases hn; rfl), by simp [startPhase, hd]⟩
  | _ => exact .inr ⟨by simp, rfl⟩

theorem execEvCmdSent_next {s t : State} (h : execEvCmdSent s = .next t) :
    ∃ index arg wait long, s.ce = .sending index arg wait long ∧
      t = (((s.appendCard (.cmdFrame index arg)).setRegs
        { s.regs with csta := { s.regs.csta with cmdsent := true } }).setCe
          (if wait then .waitRsp long else .idle)).setDe (startPhase .rx s.de) := by
  unfold execEvCmdSent at h
  split at h
  · next index arg wait long hce => exact ⟨index, arg, wait, long, hce, by simpa using h.symm⟩
  · simp at h

theorem execEvRspShort_next {w : Word} {s t : State} (h : execEvRspShort w s = .next t) :
    s.ce = .waitRsp false ∧ t = responseArrives [w] (some w) none none none s := by
  unfold execEvRspShort at h
  split at h
  · next hce => exact ⟨hce, by simpa using h.symm⟩
  · simp at h

theorem execEvRspLong_next {w0 w1 w2 w3 : Word} {s t : State} (h : execEvRspLong w0 w1 w2 w3 s = .next t) :
    s.ce = .waitRsp true ∧
      t = responseArrives [w0, w1, w2, w3] (some w0) (some w1) (some w2) (some w3) s := by
  unfold execEvRspLong at h
  split at h
  · next hce => exact ⟨hce, by simpa using h.symm⟩
  · simp at h

theorem execEvRspTimeout_next {s t : State} (h : execEvRspTimeout s = .next t) :
    ∃ long, s.ce = .waitRsp long ∧
      t = (s.setRegs { s.regs with csta := { s.regs.csta with cmdtimeout := true } }).setCe .idle := by
  unfold execEvRspTimeout at h
  split at h
  · next long hce => exact ⟨long, hce, by simpa using h.symm⟩
  · simp at h

theorem execEvRxBytes_next {bs : List Byte} {s t : State} (h : execEvRxBytes bs s = .next t) :
    ∃ left, s.de = .active .rx left ∧ 1 ≤ bs.length ∧ bs.length ≤ left ∧
      s.fifo.length + bs.length ≤ s.config.fifoDepth ∧
      t = ((s.appendCard (.rxBytes bs)).setFifo (s.fifo ++ bs)).setDe (.active .rx (left - bs.length)) := by
  unfold execEvRxBytes at h
  split at h
  · next left hde =>
    split at h
    · next hg => exact ⟨left, hde, hg.1, hg.2.1, hg.2.2, by simpa using h.symm⟩
    · simp at h
  · simp at h

theorem execEvTxBytes_next {k : Nat} {s t : State} (h : execEvTxBytes k s = .next t) :
    ∃ left, s.de = .active .tx left ∧ 1 ≤ k ∧ k ≤ left ∧ k ≤ s.fifo.length ∧
      t = ((s.appendCard (.txBytes (s.fifo.take k))).setFifo (s.fifo.drop k)).setDe (.active .tx (left - k)) := by
  unfold execEvTxBytes at h
  split at h
  · next left hde =>
    split at h
    · next hg => exact ⟨left, hde, hg.1, hg.2.1, hg.2.2, by simpa using h.symm⟩
    · simp at h
  · simp at h

theorem execEvDataFinish_next {s t : State} (h : execEvDataFinish s = .next t) :
    ∃ dir, s.de = .active dir 0 ∧
      t = (s.setRegs { s.regs with dsta := { s.regs.dsta with xferfinish := true } }).setDe .done := by
  unfold execEvDataFinish at h
  split at h
  · next dir hde => exact ⟨dir, hde, by simpa using h.symm⟩
  · simp at h

/-! ## Register writes with a condition -/

theorem execWrPre_next {v : Word} {s t : State} (h : execWrPre v s = .next t) :
    s.ce = .idle ∧ (∀ dir left, s.de ≠ .active dir left) ∧
      t = s.setRegs { s.regs with div := s.config.layout.pre.get v } := by
  unfold execWrPre at h
  split at h
  · simp at h
  · next hce hde => exact ⟨hce, fun dir left hd => hde dir left hd, by simpa [State.updateRegs] using h.symm⟩
  · simp at h

theorem execWrBsize_next {v : Word} {s t : State} (h : execWrBsize v s = .next t) :
    (∀ dir n, s.de ≠ .armed dir n) ∧ (∀ dir n, s.de ≠ .active dir n) ∧
      t = s.setRegs { s.regs with bsize := s.config.layout.bsize.get v } := by
  unfold execWrBsize at h
  split at h
  · simp at h
  · simp at h
  · next h1 h2 =>
    exact ⟨fun dir n hd => h1 dir n hd, fun dir n hd => h2 dir n hd, by simpa [State.updateRegs] using h.symm⟩

theorem execWrImsk_next {v : Word} {s t : State} (h : execWrImsk v s = .next t) :
    v = 0#32 ∧ t = s.setRegs { s.regs with imsk := 0#32 } := by
  unfold execWrImsk at h
  split at h
  · next hv => subst hv; exact ⟨rfl, by simpa [State.updateRegs] using h.symm⟩
  · simp at h

theorem execWrCon_next {v : Word} {s t : State} (h : execWrCon v s = .next t) :
    (bitAt v s.config.layout.con.sdreset = true ∧ t = softwareReset s) ∨
      (bitAt v s.config.layout.con.sdreset = false ∧
        configure (bitAt v s.config.layout.con.clktype) (bitAt v s.config.layout.con.fiforeset) s = .next t) := by
  unfold execWrCon at h
  split at h
  · next hb => exact .inl ⟨hb, by simpa using h.symm⟩
  · next hb => exact .inr ⟨by simpa using hb, h⟩

theorem execWrCcon_next {v : Word} {s t : State} (h : execWrCcon v s = .next t) :
    (bitAt v s.config.layout.ccon.cmdstart = false ∧ ∃ f, t = storeCcon f s) ∨
      (bitAt v s.config.layout.ccon.cmdstart = true ∧ ∃ index wait long, armCommand index wait long s = .next t) := by
  unfold execWrCcon at h
  split at h
  · next hb =>
    split at h
    · exact .inr ⟨hb, _, _, _, h⟩
    · simp at h
  · next hb => exact .inl ⟨by simpa using hb, _, by simpa using h.symm⟩

theorem execWrDcon_next {v : Word} {s t : State} (h : execWrDcon v s = .next t) :
    t = dataControlOff s ∨ (∃ dir blknum widebus, armData dir blknum widebus s = .next t) := by
  unfold execWrDcon at h
  split at h
  · exact .inl (by simpa using h.symm)
  · split at h
    · exact .inr ⟨_, _, _, h⟩
    · simp at h

end Sys2Proof.Machine
end

