-- ==== Sys2Proof/Laws/Bits.lean ====
section
/-! SUPPORT. The words the model assembles and reads, register by register, for every admissible layout: instances of the
lemmas of Laws/Words.lean. -/

namespace Sys2Proof.Machine

open Sys2Proof

/-! ## Control words -/

/-- The five fields of a command-control word assembled from them (R112). -/
theorem cconFormWord_fields {l : Config.CconLayout} (h : Fits l.fields) (index : BitVec 6) (sh cs wr lr : Bool) :
    indexOf l (cconFormWord l index sh cs wr lr) = index ∧
    bitAt (cconFormWord l index sh cs wr lr) l.senderhost = sh ∧
    bitAt (cconFormWord l index sh cs wr lr) l.cmdstart = cs ∧
    bitAt (cconFormWord l index sh cs wr lr) l.waitrsp = wr ∧
    bitAt (cconFormWord l index sh cs wr lr) l.longrsp = lr := by
  refine ⟨?_, bitAt_wordOf h rfl (by simp), bitAt_wordOf h rfl (by simp), bitAt_wordOf h rfl (by simp),
    bitAt_wordOf h rfl (by simp)⟩
  rw [indexOf, cconFormWord, get_wordOf h rfl (List.mem_cons_of_mem _ (List.mem_cons_self ..)),
    clip_setWidth _ (by exact Nat.le_refl 6)]
  simp

/-- No unnamed bit of a command-control word assembled from its fields is set. -/
theorem cconFormWord_unnamed (l : Config.CconLayout) (index : BitVec 6) (sh cs wr lr : Bool) :
    cconFormWord l index sh cs wr lr &&& ~~~maskOf l.fields = 0#32 := by
  exact wordOf_unnamed [(flag l.cmdstart, ofFlag cs), (l.indexField, index.setWidth 32), (flag l.senderhost, ofFlag sh),
    (flag l.waitrsp, ofFlag wr), (flag l.longrsp, ofFlag lr)]

/-- A word whose unnamed bits are 0 is the command-control word of its fields. -/
theorem eq_cconFormWord {l : Config.CconLayout} {w : Word} (h : w &&& ~~~maskOf l.fields = 0#32) :
    w = cconFormWord l (indexOf l w) (bitAt w l.senderhost) (bitAt w l.cmdstart) (bitAt w l.waitrsp) (bitAt w l.longrsp) := by
  conv => lhs; rw [eq_wordOf h]
  have hi : (l.indexField.get w).setWidth 6 = indexOf l w := rfl
  have hz : ((indexOf l w).setWidth 32 : Word) = l.indexField.get w := by
    apply word_ext
    intro n hn
    rw [← hi]
    have : (l.indexField.get w).getLsbD n = ((l.indexField.get w).getLsbD n && decide (n < 6)) := by
      rw [getLsbD_get]
      have e : (n < l.indexField.width) = (n < 6) := rfl
      simp [e]
    simp only [BitVec.getLsbD_setWidth, hn, decide_true, Bool.true_and]
    rw [this]; simp [Bool.and_comm]
  simp only [Config.CconLayout.fields, Config.CconLayout.stored, List.map_cons, List.map_nil, cconFormWord, get_flag, hz]

/-- The bits of DATMODE of a word: those of the low part, then those of the high part. -/
theorem getLsbD_modeOf (l : Config.DconLayout) (w : Word) (i : Nat) (hi : i < 32) :
    (l.modeOf w).getLsbD i =
      if i < l.datmode.width then (l.datmode.get w).getLsbD i
      else (l.datmodeHigh.get w).getLsbD (i - l.datmode.width) := by
  rw [Config.DconLayout.modeOf, BitVec.getLsbD_or, BitVec.getLsbD_shiftLeft]
  by_cases h : i < l.datmode.width
  · simp [h]
  · have hz : (l.datmode.get w).getLsbD i = false := by simp [getLsbD_get, h]
    rw [hz]; simp [h, hi]

/-- DATMODE of two words is the same if both parts are. -/
theorem modeOf_congr {l : Config.DconLayout} {v w : Word} (h : l.datmode.get v = l.datmode.get w)
    (h' : l.datmodeHigh.get v = l.datmodeHigh.get w) : l.modeOf v = l.modeOf w := by
  rw [Config.DconLayout.modeOf, Config.DconLayout.modeOf, h, h']

/-- DATMODE of a word is a value of DATMODE. -/
@[simp] theorem clip_modeOf (l : Config.DconLayout) (w : Word) : l.datmodeValue.clip (l.modeOf w) = l.modeOf w := by
  apply word_ext
  intro i hi
  rw [getLsbD_clip, getLsbD_modeOf l w i hi]
  have e : l.datmodeValue.width = l.datmode.width + l.datmodeHigh.width := rfl
  by_cases h : i < l.datmode.width
  · have h' : i < l.datmode.width + l.datmodeHigh.width := by omega
    simp [h, e, h']
  · by_cases h' : i < l.datmode.width + l.datmodeHigh.width
    · simp [h, e, h']
    · have h2 : ¬ i - l.datmode.width < l.datmodeHigh.width := by omega
      simp [h, e, h', h2, getLsbD_get]

/-- A word whose parts of DATMODE hold a value's bits has that value. -/
theorem modeOf_of_parts {l : Config.DconLayout} {w m : Word} (h : l.datmode.get w = l.datmode.clip m)
    (h' : l.datmodeHigh.get w = l.datmodeHigh.clip (m >>> l.datmode.width)) : l.modeOf w = l.datmodeValue.clip m := by
  apply word_ext
  intro i hi
  rw [getLsbD_modeOf l w i hi, h, h', getLsbD_clip, getLsbD_clip, getLsbD_clip, BitVec.getLsbD_ushiftRight]
  have e : l.datmodeValue.width = l.datmode.width + l.datmodeHigh.width := rfl
  by_cases c : i < l.datmode.width
  · have c' : i < l.datmode.width + l.datmodeHigh.width := by omega
    simp [c, e, c']
  · have e2 : l.datmode.width + (i - l.datmode.width) = i := by omega
    have e3 : (i - l.datmode.width < l.datmodeHigh.width) = (i < l.datmode.width + l.datmodeHigh.width) := by
      apply propext; omega
    rw [if_neg c, e, e2]
    simp only [e3]

/-- The fields of a data-control word assembled from them (R114). -/
theorem dconFieldsWord_fields {l : Config.DconLayout} (h : Fits l.fields) (blknum : BitVec 11) (m z : Word)
    (ds wb bm ra ta : Bool) :
    blknumOf l (dconFieldsWord l blknum m ds wb bm ra ta z) = blknum ∧
    l.modeOf (dconFieldsWord l blknum m ds wb bm ra ta z) = l.datmodeValue.clip m ∧
    bitAt (dconFieldsWord l blknum m ds wb bm ra ta z) l.datstart = ds ∧
    bitAt (dconFieldsWord l blknum m ds wb bm ra ta z) l.widebus = wb ∧
    bitAt (dconFieldsWord l blknum m ds wb bm ra ta z) l.blockmode = bm ∧
    bitAt (dconFieldsWord l blknum m ds wb bm ra ta z) l.racmd = ra ∧
    bitAt (dconFieldsWord l blknum m ds wb bm ra ta z) l.tarsp = ta ∧
    l.datasize.get (dconFieldsWord l blknum m ds wb bm ra ta z) = l.datasize.clip z := by
  refine ⟨?_, modeOf_of_parts (get_wordOf h rfl (by simp)) (get_wordOf h rfl (by simp)), bitAt_wordOf h rfl (by simp),
    bitAt_wordOf h rfl (by simp), bitAt_wordOf h rfl (by simp), bitAt_wordOf h rfl (by simp),
    bitAt_wordOf h rfl (by simp), get_wordOf h rfl (by simp)⟩
  rw [blknumOf, dconFieldsWord, get_wordOf h rfl (List.mem_cons_of_mem _ (List.mem_cons_self ..)),
    clip_setWidth _ (by exact Nat.le_refl 11)]
  simp

/-- The bits of a data-control word. -/
theorem getLsbD_dconFieldsWord (l : Config.DconLayout) (blknum : BitVec 11) (m z : Word) (ds wb bm ra ta : Bool) (n : Nat)
    (hn : n < 32) :
    (dconFieldsWord l blknum m ds wb bm ra ta z).getLsbD n =
      ((decide (l.blknum ≤ n ∧ n < l.blknum + 11) && (blknum.setWidth 32 : Word).getLsbD (n - l.blknum))
        || ((decide (l.widebus ≤ n ∧ n < l.widebus + 1) && (ofFlag wb).getLsbD (n - l.widebus))
          || (dconFieldsWord l 0#11 m ds false bm ra ta z).getLsbD n)) := by
  rw [dconFieldsWord, dconFieldsWord, getLsbD_wordOf _ n hn, getLsbD_wordOf _ n hn]
  have e0 : (ofFlag false) = 0#32 := rfl
  simp only [List.any_cons, List.any_nil, Bool.or_false, flag, Config.DconLayout.blknumField, Config.blknumWidth, e0]
  have e1 : ∀ k, ((0#11).setWidth 32 : Word).getLsbD k = false := by intro k; simp
  have e2 : ∀ k, (0#32).getLsbD k = false := by intro k; simp
  simp only [e1, e2, Bool.and_false, Bool.false_or]
  generalize (decide (l.blknum ≤ n ∧ n < l.blknum + 11) && (blknum.setWidth 32 : Word).getLsbD (n - l.blknum)) = a
  generalize (decide (l.widebus ≤ n ∧ n < l.widebus + 1) && (ofFlag wb).getLsbD (n - l.widebus)) = b
  cases a <;> cases b <;> simp

/-- An arming word under the form's mask (R114). -/
theorem dconFieldsWord_under_mask (l : Config.DconLayout) (blknum : BitVec 11) (m z : Word) (ds wb bm ra ta : Bool)
    (h : Fits l.fields) :
    dconFieldsWord l blknum m ds wb bm ra ta z &&& dconFormMask l = dconFieldsWord l 0#11 m ds false bm ra ta z := by
  apply word_ext
  intro n hn
  rw [BitVec.getLsbD_and, dconFormMask, BitVec.getLsbD_not, getLsbD_maskOf _ n hn,
    getLsbD_dconFieldsWord l blknum m z ds wb bm ra ta n hn]
  simp only [hn, decide_true, Bool.true_and, List.any_cons, List.any_nil, Bool.or_false, flag,
    Config.DconLayout.blknumField, Config.blknumWidth]
  by_cases h1 : l.blknum ≤ n ∧ n < l.blknum + 11
  · have hz : (dconFieldsWord l 0#11 m ds false bm ra ta z).getLsbD n = false := by
      have hf := dconFieldsWord_fields h 0#11 m z ds false bm ra ta
      have hb := congrArg (fun v => v.getLsbD (n - l.blknum)) hf.1
      rw [blknumOf] at hb
      simp only [BitVec.getLsbD_setWidth, getLsbD_get] at hb
      have e : l.blknumField.lo + (n - l.blknum) = n := by
        show l.blknum + (n - l.blknum) = n
        omega
      have e2 : n - l.blknum < 11 := by omega
      have e3 : n - l.blknum < l.blknumField.width := e2
      rw [e] at hb
      simpa [e2, e3] using hb
    simp [h1, hz]
  · by_cases h2 : l.widebus ≤ n ∧ n < l.widebus + 1
    · have hz : (dconFieldsWord l 0#11 m ds false bm ra ta z).getLsbD n = false := by
        have hf := (dconFieldsWord_fields h 0#11 m z ds false bm ra ta).2.2.2.1
        have e : n = l.widebus := by omega
        rw [bitAt] at hf; rw [e]; exact hf
      simp [h1, h2, hz]
    · rw [decide_eq_false h1, decide_eq_false h2]; simp

/-- The form of an arming word (R114). -/
theorem dataFormWord_under_mask {l : Config.DconLayout} (h : Fits l.fields) (dir : Direction) (blknum : BitVec 11)
    (widebus : Bool) : dataFormWord l dir blknum widebus &&& dconFormMask l = dataFormWord l dir 0#11 false := by
  cases dir <;> exact dconFieldsWord_under_mask l blknum _ _ _ _ _ _ _ h

/-- The fields of an arming word. -/
theorem dataFormWord_fields {l : Config.DconLayout} (h : Fits l.fields) (dir : Direction) (blknum : BitVec 11)
    (widebus : Bool) :
    blknumOf l (dataFormWord l dir blknum widebus) = blknum ∧
    bitAt (dataFormWord l dir blknum widebus) l.datstart = true ∧
    bitAt (dataFormWord l dir blknum widebus) l.widebus = widebus ∧
    bitAt (dataFormWord l dir blknum widebus) l.blockmode = true ∧
    bitAt (dataFormWord l dir blknum widebus) l.racmd = decide (dir = .rx) ∧
    bitAt (dataFormWord l dir blknum widebus) l.tarsp = decide (dir = .tx) := by
  cases dir <;>
    exact ⟨(dconFieldsWord_fields h ..).1, (dconFieldsWord_fields h ..).2.2.1, (dconFieldsWord_fields h ..).2.2.2.1,
      (dconFieldsWord_fields h ..).2.2.2.2.1, (dconFieldsWord_fields h ..).2.2.2.2.2.1,
      (dconFieldsWord_fields h ..).2.2.2.2.2.2.1⟩

/-- An arming word is not zero. -/
theorem dataFormWord_ne_zero {l : Config.DconLayout} (h : Fits l.fields) (dir : Direction) (blknum : BitVec 11)
    (widebus : Bool) : dataFormWord l dir blknum widebus ≠ 0#32 := by
  intro he
  have := (dataFormWord_fields h dir blknum widebus).2.1
  rw [he] at this
  simp [bitAt] at this

/-- The two forms differ. -/
theorem dataFormWord_dir {l : Config.DconLayout} (h : Fits l.fields) {d e : Direction} {n m : BitVec 11} {b c : Bool}
    (he : dataFormWord l d n b = dataFormWord l e m c) : d = e := by
  have h1 := (dataFormWord_fields h d n b).2.2.2.2.1
  rw [he, (dataFormWord_fields h e m c).2.2.2.2.1] at h1
  cases d <;> cases e <;> simp at h1 <;> rfl

/-- An arming word is of its form (R114). -/
theorem dataForm_dataFormWord {l : Config.DconLayout} (h : Fits l.fields) (dir : Direction) (blknum : BitVec 11)
    (widebus : Bool) : dataForm l (dataFormWord l dir blknum widebus) = some dir := by
  rw [dataForm, dataFormWord_under_mask h]
  cases dir with
  | rx => rw [if_pos rfl]
  | tx => rw [if_neg (fun he => by cases dataFormWord_dir h he), if_pos rfl]

/-- What a word of a form is under the mask. -/
theorem dataForm_some {l : Config.DconLayout} {w : Word} {dir : Direction} (h : dataForm l w = some dir) :
    w &&& dconFormMask l = dataFormWord l dir 0#11 false := by
  unfold dataForm at h
  split at h
  · next e => cases h; exact e
  · split at h
    · next e => cases h; exact e
    · cases h

/-- A word of a form is the arming word of its two fields. -/
theorem eq_dataFormWord {l : Config.DconLayout} (hF : Fits l.fields) {w : Word} {dir : Direction}
    (h : dataForm l w = some dir) : w = dataFormWord l dir (blknumOf l w) (bitAt w l.widebus) := by
  have h1 := dataForm_some h
  have h2 := dataFormWord_under_mask hF dir (blknumOf l w) (bitAt w l.widebus)
  apply word_ext
  intro n hn
  have hb : ∀ v : Word, (v &&& dconFormMask l).getLsbD n = (v.getLsbD n &&
      !((decide (l.blknum ≤ n ∧ n < l.blknum + 11)) || decide (l.widebus ≤ n ∧ n < l.widebus + 1))) := by
    intro v
    rw [BitVec.getLsbD_and, dconFormMask, BitVec.getLsbD_not, getLsbD_maskOf _ n hn]
    simp [hn, flag, Config.DconLayout.blknumField]
  have h3 := congrArg (fun v => v.getLsbD n) (h1.trans h2.symm)
  simp only [hb] at h3
  by_cases c1 : l.blknum ≤ n ∧ n < l.blknum + 11
  · have hf := (dataFormWord_fields hF dir (blknumOf l w) (bitAt w l.widebus)).1
    have hg := congrArg (fun v => v.getLsbD (n - l.blknum)) hf
    simp only [blknumOf, BitVec.getLsbD_setWidth, getLsbD_get] at hg
    have e : l.blknumField.lo + (n - l.blknum) = n := by
      show l.blknum + (n - l.blknum) = n
      omega
    have e2 : n - l.blknum < 11 := by omega
    have e3 : n - l.blknum < l.blknumField.width := e2
    rw [e] at hg
    simp only [e2, e3, decide_true, Bool.true_and, Bool.and_true] at hg
    exact hg.symm
  · by_cases c2 : l.widebus ≤ n ∧ n < l.widebus + 1
    · have e : n = l.widebus := by omega
      have := (dataFormWord_fields hF dir (blknumOf l w) (bitAt w l.widebus)).2.2.1
      rw [e]; exact this.symm
    · rw [decide_eq_false c1, decide_eq_false c2] at h3
      simpa using h3

/-! ## What the sequencer sees of the status registers -/

/-- The fields of the word of CSTA's named bits. -/
theorem cstaWord_bits {l : Config.CstaLayout} (h : Fits l.fields) (ce : CmdEngine) (f : CstaFlags) :
    bitAt (cstaWord l ce f) l.cmdon = cmdon ce ∧ bitAt (cstaWord l ce f) l.rspfin = f.rspfin ∧
    bitAt (cstaWord l ce f) l.cmdtimeout = f.cmdtimeout ∧ bitAt (cstaWord l ce f) l.cmdsent = f.cmdsent :=
  ⟨bitAt_wordOf h rfl (by simp), bitAt_wordOf h rfl (by simp), bitAt_wordOf h rfl (by simp),
    bitAt_wordOf h rfl (by simp)⟩

theorem flag_inside {fs : List Field} (h : Fits fs) {n : Nat} (hm : flag n ∈ fs) : n < 32 := by
  have := h.inside _ hm
  simp only [flag] at this
  omega

/-- A named flag of a word read is the flag of the named word. -/
theorem bitAt_read {fs : List Field} (h : Fits fs) {n : Nat} (hm : flag n ∈ fs) (a d : Word) :
    bitAt (mergeDraw (maskOf fs) a d) n = bitAt a n := bitAt_mergeDraw hm (flag_inside h hm) a d

/-- The bits of a word read from CSTA are the flags (R160, R290). -/
theorem csta_read_bits {l : Config.CstaLayout} (h : Fits l.fields) (ce : CmdEngine) (f : CstaFlags) (d : Word) :
    bitAt (mergeDraw (maskOf l.fields) (cstaWord l ce f) d) l.cmdon = cmdon ce ∧
    bitAt (mergeDraw (maskOf l.fields) (cstaWord l ce f) d) l.rspfin = f.rspfin ∧
    bitAt (mergeDraw (maskOf l.fields) (cstaWord l ce f) d) l.cmdtimeout = f.cmdtimeout ∧
    bitAt (mergeDraw (maskOf l.fields) (cstaWord l ce f) d) l.cmdsent = f.cmdsent := by
  have hw := cstaWord_bits h ce f
  refine ⟨(bitAt_read h ?_ ..).trans hw.1, (bitAt_read h ?_ ..).trans hw.2.1, (bitAt_read h ?_ ..).trans hw.2.2.1,
    (bitAt_read h ?_ ..).trans hw.2.2.2⟩ <;> simp [Config.CstaLayout.fields]

/-- The fields of the word of DSTA's flags. -/
theorem dstaWord_bits {l : Config.DstaLayout} (h : Fits l.fields) (f : DstaFlags) :
    bitAt (dstaWord l f) l.xferfinish = f.xferfinish ∧ bitAt (dstaWord l f) l.datatimeout = f.datatimeout ∧
    bitAt (dstaWord l f) l.rxcrcfail = f.rxcrcfail ∧ bitAt (dstaWord l f) l.crcfail = f.crcfail ∧
    bitAt (dstaWord l f) l.fifofail = f.fifofail :=
  ⟨bitAt_wordOf h rfl (by simp), bitAt_wordOf h rfl (by simp), bitAt_wordOf h rfl (by simp),
    bitAt_wordOf h rfl (by simp), bitAt_wordOf h rfl (by simp)⟩

/-- The bits of a word read from DSTA are the flags (R177). -/
theorem dsta_read_bits {l : Config.DstaLayout} (h : Fits l.fields) (f : DstaFlags) (d : Word) :
    bitAt (mergeDraw (maskOf l.fields) (dstaWord l f) d) l.xferfinish = f.xferfinish ∧
    bitAt (mergeDraw (maskOf l.fields) (dstaWord l f) d) l.datatimeout = f.datatimeout ∧
    bitAt (mergeDraw (maskOf l.fields) (dstaWord l f) d) l.rxcrcfail = f.rxcrcfail ∧
    bitAt (mergeDraw (maskOf l.fields) (dstaWord l f) d) l.crcfail = f.crcfail ∧
    bitAt (mergeDraw (maskOf l.fields) (dstaWord l f) d) l.fifofail = f.fifofail := by
  have hw := dstaWord_bits h f
  refine ⟨(bitAt_read h ?_ ..).trans hw.1, (bitAt_read h ?_ ..).trans hw.2.1, (bitAt_read h ?_ ..).trans hw.2.2.1,
    (bitAt_read h ?_ ..).trans hw.2.2.2.1, (bitAt_read h ?_ ..).trans hw.2.2.2.2⟩ <;>
      simp [Config.DstaLayout.fields, Config.DstaLayout.errors]

/-- An error bit of a masked status word is the bit of the word. -/
theorem bitAt_errorBits {l : Config.DstaLayout} (h : Fits l.fields) (w : Word) {n : Nat} (hm : flag n ∈ l.errors) :
    bitAt (errorBits l w) n = bitAt w n := by
  have hn : n < 32 := flag_inside h (List.mem_cons_of_mem _ hm)
  rw [errorBits, bitAt, BitVec.getLsbD_and, getLsbD_maskOf _ n hn]
  have : (l.errors.any fun f => decide (f.lo ≤ n ∧ n < f.lo + f.width)) = true :=
    List.any_eq_true.mpr ⟨flag n, hm, by simp [flag]⟩
  rw [this, Bool.and_true, bitAt]

/-- No error bit of a status word is set exactly when none of the four flags is (R300). -/
theorem errorBits_eq_zero {l : Config.DstaLayout} (h : Fits l.fields) (w : Word) :
    errorBits l w = 0#32 ↔ bitAt w l.datatimeout = false ∧ bitAt w l.rxcrcfail = false ∧ bitAt w l.crcfail = false ∧
      bitAt w l.fifofail = false := by
  have hm : flag l.datatimeout ∈ l.errors ∧ flag l.rxcrcfail ∈ l.errors ∧ flag l.crcfail ∈ l.errors ∧
      flag l.fifofail ∈ l.errors := by simp [Config.DstaLayout.errors]
  constructor
  · intro he
    have hz : ∀ n, bitAt (errorBits l w) n = false := by intro n; rw [he]; simp [bitAt]
    exact ⟨(bitAt_errorBits h w hm.1).symm.trans (hz _), (bitAt_errorBits h w hm.2.1).symm.trans (hz _),
      (bitAt_errorBits h w hm.2.2.1).symm.trans (hz _), (bitAt_errorBits h w hm.2.2.2).symm.trans (hz _)⟩
  · intro ⟨h1, h2, h3, h4⟩
    apply word_ext
    intro n hn
    rw [errorBits, BitVec.getLsbD_and, getLsbD_maskOf _ n hn]
    simp only [Config.DstaLayout.errors, List.any_cons, List.any_nil, Bool.or_false, flag]
    by_cases c1 : n = l.fifofail
    · subst c1; rw [bitAt] at h4; simp [h4]
    · by_cases c2 : n = l.crcfail
      · subst c2; rw [bitAt] at h3; simp [h3]
      · by_cases c3 : n = l.rxcrcfail
        · subst c3; rw [bitAt] at h2; simp [h2]
        · by_cases c4 : n = l.datatimeout
          · subst c4; rw [bitAt] at h1; simp [h1]
          · have e : ∀ m, ¬ n = m → decide (m ≤ n ∧ n < m + 1) = false := by
              intro m hm'; simp only [decide_eq_false_iff_not]; omega
            rw [e _ c1, e _ c2, e _ c3, e _ c4]; simp

/-- The error set of a masked status word is the set of its flags (R340). -/
theorem errorSet_errorBits {l : Config.DstaLayout} (h : Fits l.fields) (w : Word) :
    errorSet l (errorBits l w) =
      ⟨bitAt w l.fifofail, bitAt w l.crcfail, bitAt w l.rxcrcfail, bitAt w l.datatimeout⟩ := by
  simp only [errorSet]
  rw [bitAt_errorBits h w (n := l.fifofail) (by simp [Config.DstaLayout.errors]),
    bitAt_errorBits h w (n := l.crcfail) (by simp [Config.DstaLayout.errors]),
    bitAt_errorBits h w (n := l.rxcrcfail) (by simp [Config.DstaLayout.errors]),
    bitAt_errorBits h w (n := l.datatimeout) (by simp [Config.DstaLayout.errors])]

/-- No error bit of a word read from DSTA is set exactly when no error flag is. -/
theorem errorBits_dsta_read {l : Config.DstaLayout} (h : Fits l.fields) (f : DstaFlags) (d : Word) :
    errorBits l (mergeDraw (maskOf l.fields) (dstaWord l f) d) = 0#32 ↔ noErrorFlag f := by
  rw [errorBits_eq_zero h]
  have hr := dsta_read_bits h f d
  rw [hr.2.1, hr.2.2.1, hr.2.2.2.1, hr.2.2.2.2]
  rfl

/-- The error set the sequencer takes from a word read from DSTA is the set of the flags (R340). -/
theorem errorSet_dsta_read {l : Config.DstaLayout} (h : Fits l.fields) (f : DstaFlags) (d : Word) :
    errorSet l (errorBits l (mergeDraw (maskOf l.fields) (dstaWord l f) d)) = errorFlags f := by
  rw [errorSet_errorBits h]
  have hr := dsta_read_bits h f d
  rw [hr.2.1, hr.2.2.1, hr.2.2.2.1, hr.2.2.2.2]
  rfl

/-- The count the sequencer reads is the occupancy (R179, R33). -/
theorem countOf_fsta_read {c : Config} (hc : Admissible c) (fifo : List Byte) (d : Word) (h : fifo.length ≤ c.fifoDepth) :
    countOf c.layout.fsta (mergeDraw (maskOf c.layout.fsta.fields) (fstaWord c fifo) d) = fifo.length := by
  have hF := hc.fsta
  have hm : c.layout.fsta.count ∈ c.layout.fsta.fields := by simp [Config.FstaLayout.fields]
  have hin := hF.inside _ hm
  have hw : fifo.length ≤ c.layout.fsta.count.max := by
    have := hc.count
    simp only [Field.max]; omega
  rw [countOf, get_mergeDraw hm hin, fstaWord, get_wordOf hF rfl (List.mem_cons_self ..),
    fifoCount, clip_ofNat hw, BitVec.toNat_ofNat]
  apply Nat.mod_eq_of_lt
  have h32 : 2 ^ c.layout.fsta.count.width ≤ 2 ^ 32 := Nat.pow_le_pow_right (by decide) (by omega)
  have := hc.count
  omega

/-- TFHALF as the sequencer reads it (R242). -/
theorem tfhalf_fsta_read {c : Config} (hc : Admissible c) (fifo : List Byte) (d : Word) :
    bitAt (mergeDraw (maskOf c.layout.fsta.fields) (fstaWord c fifo) d) c.layout.fsta.tfhalf = tfhalf c.txReadyLevel fifo := by
  rw [bitAt_read hc.fsta (by simp [Config.FstaLayout.fields]), fstaWord]
  exact bitAt_wordOf hc.fsta rfl (by simp)

/-! ## The reference layout -/

/-- The configuration with the spec's defaults is one the spec admits. -/
theorem admissible_reference : Admissible Config.reference where
  offsetsRise := by decide
  offsetsAligned := by decide
  con := ⟨by decide, by decide⟩
  pre := ⟨by decide, by decide⟩
  ccon := ⟨by decide, by decide⟩
  csta := ⟨by decide, by decide⟩
  dtimer := ⟨by decide, by decide⟩
  bsize := ⟨by decide, by decide⟩
  dcon := ⟨by decide, by decide⟩
  dsta := ⟨by decide, by decide⟩
  fsta := ⟨by decide, by decide⟩
  dataValues := by decide
  count := by decide
  ready := by decide
  resetValues := by decide

/-- Which configurations are admissible depends on the offsets, the layout, the reset values and the FIFO alone. -/
theorem Admissible.of_same {c d : Config} (h : Admissible c) (ho : d.offsets = c.offsets) (hl : d.layout = c.layout)
    (hr : d.reset = c.reset) (hf : d.fifoDepth = c.fifoDepth) (ht : d.txReadyLevel = c.txReadyLevel) : Admissible d where
  offsetsRise := by rw [ho]; exact h.offsetsRise
  offsetsAligned := by rw [ho]; exact h.offsetsAligned
  con := by rw [hl]; exact h.con
  pre := by rw [hl]; exact h.pre
  ccon := by rw [hl]; exact h.ccon
  csta := by rw [hl]; exact h.csta
  dtimer := by rw [hl]; exact h.dtimer
  bsize := by rw [hl]; exact h.bsize
  dcon := by rw [hl]; exact h.dcon
  dsta := by rw [hl]; exact h.dsta
  fsta := by rw [hl]; exact h.fsta
  dataValues := by rw [hl]; exact h.dataValues
  count := by rw [hf, hl]; exact h.count
  ready := by rw [hf, ht]; exact h.ready
  resetValues := by rw [hr, hl]; exact h.resetValues

/-! ## Words that clear every flag -/

/-- A word that covers the named fields has a 1 at each flag among them. -/
theorem bitAt_of_covers {v : Word} {fs : List Field} (h : v &&& maskOf fs = maskOf fs) (hf : Fits fs) {n : Nat}
    (hn : flag n ∈ fs) : bitAt v n = true := by
  have h32 := flag_inside hf hn
  have hm : (maskOf fs).getLsbD n = true := by
    rw [getLsbD_maskOf _ _ h32, List.any_eq_true]
    exact ⟨flag n, hn, by simp [flag]⟩
  have e := congrArg (fun w : Word => w.getLsbD n) h
  rw [BitVec.getLsbD_and, hm, Bool.and_true] at e
  exact e

/-- The all-ones pattern covers every field (R125). -/
theorem allOnes_covers (m : Word) : allOnes &&& m = m := by
  rw [show allOnes = BitVec.allOnes 32 by decide, BitVec.allOnes_and]

/-- A write that covers the group of CSTA leaves no latched flag set (R161). -/
theorem clearCsta_covers {l : Config.CstaLayout} {v : Word} (hf : Fits l.fields) (h : v &&& maskOf l.fields = maskOf l.fields)
    (f : CstaFlags) : clearCsta l f v = ⟨false, false, false⟩ := by
  have b : ∀ n, flag n ∈ l.fields → bitAt v n = true := fun _ hn => bitAt_of_covers h hf hn
  simp only [Config.CstaLayout.fields, List.mem_cons] at b
  simp [clearCsta, w1c, b]

/-- A write that covers the named flags of DSTA leaves none set (R178). -/
theorem clearDsta_covers {l : Config.DstaLayout} {v : Word} (hf : Fits l.fields) (h : v &&& maskOf l.fields = maskOf l.fields)
    (f : DstaFlags) : clearDsta l f v = ⟨false, false, false, false, false⟩ := by
  have b : ∀ n, flag n ∈ l.fields → bitAt v n = true := fun _ hn => bitAt_of_covers h hf hn
  simp only [Config.DstaLayout.fields, Config.DstaLayout.errors, List.mem_cons] at b
  simp [clearDsta, w1c, b]

/-! ## Forms and offsets read back -/

/-- A word the selector of arming forms accepts (R112, R130). -/
theorem commandForm_some {l : Config.CconLayout} {w : Word} {p : Bool × Bool} (h : commandForm l w = some p) :
    (w &&& ~~~maskOf l.fields = 0#32 ∧ bitAt w l.senderhost = true ∧
      (bitAt w l.longrsp = true → bitAt w l.waitrsp = true)) ∧ p = (bitAt w l.waitrsp, bitAt w l.longrsp) := by
  unfold commandForm at h
  split at h
  · next hh => exact ⟨hh, (Option.some.inj h).symm⟩
  · cases h

/-- The register found at an offset stands there. -/
theorem offset_of_ofOffset {os : Config.Offsets} {o : Nat} {r : Reg} (h : Reg.ofOffset os o = some r) :
    r.offset os = o := by
  have he := List.find?_some h
  simpa using he

end Sys2Proof.Machine
end

