-- ==== Sys2Proof/Laws/Fields.lean ====
section
/-! SUPPORT. What each named operation on the state does to each field. All by definition. -/

namespace Sys2Proof.Machine

@[simp] theorem softwareReset_config (s : State) :
    (softwareReset s).config = s.config := rfl
@[simp] theorem softwareReset_regs (s : State) :
    (softwareReset s).regs = Regs.afterReset s.config.reset := rfl
@[simp] theorem softwareReset_fifo (s : State) :
    (softwareReset s).fifo = [] := rfl
@[simp] theorem softwareReset_ce (s : State) :
    (softwareReset s).ce = .idle := rfl
@[simp] theorem softwareReset_de (s : State) :
    (softwareReset s).de = .idle := rfl
@[simp] theorem softwareReset_card (s : State) :
    (softwareReset s).card = s.card := rfl
@[simp] theorem softwareReset_pc (s : State) :
    (softwareReset s).pc = s.pc := rfl
@[simp] theorem softwareReset_ctrl (s : State) :
    (softwareReset s).ctrl = s.ctrl := rfl
@[simp] theorem softwareReset_session (s : State) :
    (softwareReset s).session = s.session := rfl
@[simp] theorem softwareReset_buffer (s : State) :
    (softwareReset s).buffer = s.buffer := rfl
@[simp] theorem softwareReset_clock (s : State) :
    (softwareReset s).clock = s.clock := rfl
@[simp] theorem softwareReset_gpio (s : State) :
    (softwareReset s).gpio = s.gpio := rfl
@[simp] theorem softwareReset_hostWord (s : State) :
    (softwareReset s).hostWord = s.hostWord := rfl
@[simp] theorem softwareReset_result (s : State) :
    (softwareReset s).result = s.result := rfl
@[simp] theorem softwareReset_draws (s : State) :
    (softwareReset s).draws = s.draws := rfl
@[simp] theorem softwareReset_agenda (s : State) :
    (softwareReset s).agenda = s.agenda := rfl

@[simp] theorem storeCcon_config (f : CconFields) (s : State) :
    (storeCcon f s).config = s.config := rfl
@[simp] theorem storeCcon_regs (f : CconFields) (s : State) :
    (storeCcon f s).regs = { s.regs with ccon := f } := rfl
@[simp] theorem storeCcon_fifo (f : CconFields) (s : State) :
    (storeCcon f s).fifo = s.fifo := rfl
@[simp] theorem storeCcon_ce (f : CconFields) (s : State) :
    (storeCcon f s).ce = s.ce := rfl
@[simp] theorem storeCcon_de (f : CconFields) (s : State) :
    (storeCcon f s).de = s.de := rfl
@[simp] theorem storeCcon_card (f : CconFields) (s : State) :
    (storeCcon f s).card = s.card := rfl
@[simp] theorem storeCcon_pc (f : CconFields) (s : State) :
    (storeCcon f s).pc = s.pc := rfl
@[simp] theorem storeCcon_ctrl (f : CconFields) (s : State) :
    (storeCcon f s).ctrl = s.ctrl := rfl
@[simp] theorem storeCcon_session (f : CconFields) (s : State) :
    (storeCcon f s).session = s.session := rfl
@[simp] theorem storeCcon_buffer (f : CconFields) (s : State) :
    (storeCcon f s).buffer = s.buffer := rfl
@[simp] theorem storeCcon_clock (f : CconFields) (s : State) :
    (storeCcon f s).clock = s.clock := rfl
@[simp] theorem storeCcon_gpio (f : CconFields) (s : State) :
    (storeCcon f s).gpio = s.gpio := rfl
@[simp] theorem storeCcon_hostWord (f : CconFields) (s : State) :
    (storeCcon f s).hostWord = s.hostWord := rfl
@[simp] theorem storeCcon_result (f : CconFields) (s : State) :
    (storeCcon f s).result = s.result := rfl
@[simp] theorem storeCcon_draws (f : CconFields) (s : State) :
    (storeCcon f s).draws = s.draws := rfl
@[simp] theorem storeCcon_agenda (f : CconFields) (s : State) :
    (storeCcon f s).agenda = s.agenda := rfl

@[simp] theorem dataControlOff_config (s : State) :
    (dataControlOff s).config = s.config := rfl
@[simp] theorem dataControlOff_regs (s : State) :
    (dataControlOff s).regs = { s.regs with dcon := DconFields.zero } := rfl
@[simp] theorem dataControlOff_fifo (s : State) :
    (dataControlOff s).fifo = s.fifo := rfl
@[simp] theorem dataControlOff_ce (s : State) :
    (dataControlOff s).ce = s.ce := rfl
@[simp] theorem dataControlOff_de (s : State) :
    (dataControlOff s).de = .idle := rfl
@[simp] theorem dataControlOff_card (s : State) :
    (dataControlOff s).card = s.card := rfl
@[simp] theorem dataControlOff_pc (s : State) :
    (dataControlOff s).pc = s.pc := rfl
@[simp] theorem dataControlOff_ctrl (s : State) :
    (dataControlOff s).ctrl = s.ctrl := rfl
@[simp] theorem dataControlOff_session (s : State) :
    (dataControlOff s).session = s.session := rfl
@[simp] theorem dataControlOff_buffer (s : State) :
    (dataControlOff s).buffer = s.buffer := rfl
@[simp] theorem dataControlOff_clock (s : State) :
    (dataControlOff s).clock = s.clock := rfl
@[simp] theorem dataControlOff_gpio (s : State) :
    (dataControlOff s).gpio = s.gpio := rfl
@[simp] theorem dataControlOff_hostWord (s : State) :
    (dataControlOff s).hostWord = s.hostWord := rfl
@[simp] theorem dataControlOff_result (s : State) :
    (dataControlOff s).result = s.result := rfl
@[simp] theorem dataControlOff_draws (s : State) :
    (dataControlOff s).draws = s.draws := rfl
@[simp] theorem dataControlOff_agenda (s : State) :
    (dataControlOff s).agenda = s.agenda := rfl

@[simp] theorem State.appendCard_config (s : State) (i : CardItem) :
    (s.appendCard i).config = s.config := rfl
@[simp] theorem State.appendCard_regs (s : State) (i : CardItem) :
    (s.appendCard i).regs = s.regs := rfl
@[simp] theorem State.appendCard_fifo (s : State) (i : CardItem) :
    (s.appendCard i).fifo = s.fifo := rfl
@[simp] theorem State.appendCard_ce (s : State) (i : CardItem) :
    (s.appendCard i).ce = s.ce := rfl
@[simp] theorem State.appendCard_de (s : State) (i : CardItem) :
    (s.appendCard i).de = s.de := rfl
@[simp] theorem State.appendCard_card (s : State) (i : CardItem) :
    (s.appendCard i).card = s.card ++ [i] := rfl
@[simp] theorem State.appendCard_pc (s : State) (i : CardItem) :
    (s.appendCard i).pc = s.pc := rfl
@[simp] theorem State.appendCard_ctrl (s : State) (i : CardItem) :
    (s.appendCard i).ctrl = s.ctrl := rfl
@[simp] theorem State.appendCard_session (s : State) (i : CardItem) :
    (s.appendCard i).session = s.session := rfl
@[simp] theorem State.appendCard_buffer (s : State) (i : CardItem) :
    (s.appendCard i).buffer = s.buffer := rfl
@[simp] theorem State.appendCard_clock (s : State) (i : CardItem) :
    (s.appendCard i).clock = s.clock := rfl
@[simp] theorem State.appendCard_gpio (s : State) (i : CardItem) :
    (s.appendCard i).gpio = s.gpio := rfl
@[simp] theorem State.appendCard_hostWord (s : State) (i : CardItem) :
    (s.appendCard i).hostWord = s.hostWord := rfl
@[simp] theorem State.appendCard_result (s : State) (i : CardItem) :
    (s.appendCard i).result = s.result := rfl
@[simp] theorem State.appendCard_draws (s : State) (i : CardItem) :
    (s.appendCard i).draws = s.draws := rfl
@[simp] theorem State.appendCard_agenda (s : State) (i : CardItem) :
    (s.appendCard i).agenda = s.agenda := rfl

@[simp] theorem State.startSession_config (s : State) (o : Session) :
    (s.startSession o).config = s.config := rfl
@[simp] theorem State.startSession_regs (s : State) (o : Session) :
    (s.startSession o).regs = s.regs := rfl
@[simp] theorem State.startSession_fifo (s : State) (o : Session) :
    (s.startSession o).fifo = s.fifo := rfl
@[simp] theorem State.startSession_ce (s : State) (o : Session) :
    (s.startSession o).ce = s.ce := rfl
@[simp] theorem State.startSession_de (s : State) (o : Session) :
    (s.startSession o).de = s.de := rfl
@[simp] theorem State.startSession_card (s : State) (o : Session) :
    (s.startSession o).card = s.card := rfl
@[simp] theorem State.startSession_pc (s : State) (o : Session) :
    (s.startSession o).pc = s.pc := rfl
@[simp] theorem State.startSession_ctrl (s : State) (o : Session) :
    (s.startSession o).ctrl = s.ctrl := rfl
@[simp] theorem State.startSession_session (s : State) (o : Session) :
    (s.startSession o).session = o := rfl
@[simp] theorem State.startSession_buffer (s : State) (o : Session) :
    (s.startSession o).buffer = s.buffer := rfl
@[simp] theorem State.startSession_clock (s : State) (o : Session) :
    (s.startSession o).clock = s.clock := rfl
@[simp] theorem State.startSession_gpio (s : State) (o : Session) :
    (s.startSession o).gpio = s.gpio := rfl
@[simp] theorem State.startSession_hostWord (s : State) (o : Session) :
    (s.startSession o).hostWord = s.hostWord := rfl
@[simp] theorem State.startSession_result (s : State) (o : Session) :
    (s.startSession o).result = none := rfl
@[simp] theorem State.startSession_draws (s : State) (o : Session) :
    (s.startSession o).draws = s.draws := rfl
@[simp] theorem State.startSession_agenda (s : State) (o : Session) :
    (s.startSession o).agenda = s.agenda := rfl

@[simp] theorem State.endSession_config (s : State) (r : SessionResult) :
    (s.endSession r).config = s.config := rfl
@[simp] theorem State.endSession_regs (s : State) (r : SessionResult) :
    (s.endSession r).regs = s.regs := rfl
@[simp] theorem State.endSession_fifo (s : State) (r : SessionResult) :
    (s.endSession r).fifo = s.fifo := rfl
@[simp] theorem State.endSession_ce (s : State) (r : SessionResult) :
    (s.endSession r).ce = s.ce := rfl
@[simp] theorem State.endSession_de (s : State) (r : SessionResult) :
    (s.endSession r).de = s.de := rfl
@[simp] theorem State.endSession_card (s : State) (r : SessionResult) :
    (s.endSession r).card = s.card := rfl
@[simp] theorem State.endSession_pc (s : State) (r : SessionResult) :
    (s.endSession r).pc = s.pc := rfl
@[simp] theorem State.endSession_ctrl (s : State) (r : SessionResult) :
    (s.endSession r).ctrl = s.ctrl := rfl
@[simp] theorem State.endSession_session (s : State) (r : SessionResult) :
    (s.endSession r).session = .idle := rfl
@[simp] theorem State.endSession_buffer (s : State) (r : SessionResult) :
    (s.endSession r).buffer = s.buffer := rfl
@[simp] theorem State.endSession_clock (s : State) (r : SessionResult) :
    (s.endSession r).clock = s.clock := rfl
@[simp] theorem State.endSession_gpio (s : State) (r : SessionResult) :
    (s.endSession r).gpio = s.gpio := rfl
@[simp] theorem State.endSession_hostWord (s : State) (r : SessionResult) :
    (s.endSession r).hostWord = s.hostWord := rfl
@[simp] theorem State.endSession_result (s : State) (r : SessionResult) :
    (s.endSession r).result = some r := rfl
@[simp] theorem State.endSession_draws (s : State) (r : SessionResult) :
    (s.endSession r).draws = s.draws := rfl
@[simp] theorem State.endSession_agenda (s : State) (r : SessionResult) :
    (s.endSession r).agenda = s.agenda := rfl

@[simp] theorem State.continueAt_config (s : State) (x : ExecRun) (pos : ExecPos) :
    (s.continueAt x pos).config = s.config := rfl
@[simp] theorem State.continueAt_regs (s : State) (x : ExecRun) (pos : ExecPos) :
    (s.continueAt x pos).regs = s.regs := rfl
@[simp] theorem State.continueAt_fifo (s : State) (x : ExecRun) (pos : ExecPos) :
    (s.continueAt x pos).fifo = s.fifo := rfl
@[simp] theorem State.continueAt_ce (s : State) (x : ExecRun) (pos : ExecPos) :
    (s.continueAt x pos).ce = s.ce := rfl
@[simp] theorem State.continueAt_de (s : State) (x : ExecRun) (pos : ExecPos) :
    (s.continueAt x pos).de = s.de := rfl
@[simp] theorem State.continueAt_card (s : State) (x : ExecRun) (pos : ExecPos) :
    (s.continueAt x pos).card = s.card := rfl
@[simp] theorem State.continueAt_pc (s : State) (x : ExecRun) (pos : ExecPos) :
    (s.continueAt x pos).pc = s.pc := rfl
@[simp] theorem State.continueAt_ctrl (s : State) (x : ExecRun) (pos : ExecPos) :
    (s.continueAt x pos).ctrl = s.ctrl := rfl
@[simp] theorem State.continueAt_session (s : State) (x : ExecRun) (pos : ExecPos) :
    (s.continueAt x pos).session = .execute { x with pos := pos } := rfl
@[simp] theorem State.continueAt_buffer (s : State) (x : ExecRun) (pos : ExecPos) :
    (s.continueAt x pos).buffer = s.buffer := rfl
@[simp] theorem State.continueAt_clock (s : State) (x : ExecRun) (pos : ExecPos) :
    (s.continueAt x pos).clock = s.clock := rfl
@[simp] theorem State.continueAt_gpio (s : State) (x : ExecRun) (pos : ExecPos) :
    (s.continueAt x pos).gpio = s.gpio := rfl
@[simp] theorem State.continueAt_hostWord (s : State) (x : ExecRun) (pos : ExecPos) :
    (s.continueAt x pos).hostWord = s.hostWord := rfl
@[simp] theorem State.continueAt_result (s : State) (x : ExecRun) (pos : ExecPos) :
    (s.continueAt x pos).result = s.result := rfl
@[simp] theorem State.continueAt_draws (s : State) (x : ExecRun) (pos : ExecPos) :
    (s.continueAt x pos).draws = s.draws := rfl
@[simp] theorem State.continueAt_agenda (s : State) (x : ExecRun) (pos : ExecPos) :
    (s.continueAt x pos).agenda = s.agenda := rfl

@[simp] theorem enterFailure_config (why : Failure) (pos : ExecPos) (x : ExecRun) (s : State) :
    (enterFailure why pos x s).config = s.config := rfl
@[simp] theorem enterFailure_regs (why : Failure) (pos : ExecPos) (x : ExecRun) (s : State) :
    (enterFailure why pos x s).regs = s.regs := rfl
@[simp] theorem enterFailure_fifo (why : Failure) (pos : ExecPos) (x : ExecRun) (s : State) :
    (enterFailure why pos x s).fifo = s.fifo := rfl
@[simp] theorem enterFailure_ce (why : Failure) (pos : ExecPos) (x : ExecRun) (s : State) :
    (enterFailure why pos x s).ce = s.ce := rfl
@[simp] theorem enterFailure_de (why : Failure) (pos : ExecPos) (x : ExecRun) (s : State) :
    (enterFailure why pos x s).de = s.de := rfl
@[simp] theorem enterFailure_card (why : Failure) (pos : ExecPos) (x : ExecRun) (s : State) :
    (enterFailure why pos x s).card = s.card := rfl
@[simp] theorem enterFailure_pc (why : Failure) (pos : ExecPos) (x : ExecRun) (s : State) :
    (enterFailure why pos x s).pc = .failed why := rfl
@[simp] theorem enterFailure_ctrl (why : Failure) (pos : ExecPos) (x : ExecRun) (s : State) :
    (enterFailure why pos x s).ctrl = s.ctrl := rfl
@[simp] theorem enterFailure_session (why : Failure) (pos : ExecPos) (x : ExecRun) (s : State) :
    (enterFailure why pos x s).session = .execute { x with pos := pos } := rfl
@[simp] theorem enterFailure_buffer (why : Failure) (pos : ExecPos) (x : ExecRun) (s : State) :
    (enterFailure why pos x s).buffer = s.buffer := rfl
@[simp] theorem enterFailure_clock (why : Failure) (pos : ExecPos) (x : ExecRun) (s : State) :
    (enterFailure why pos x s).clock = s.clock := rfl
@[simp] theorem enterFailure_gpio (why : Failure) (pos : ExecPos) (x : ExecRun) (s : State) :
    (enterFailure why pos x s).gpio = s.gpio := rfl
@[simp] theorem enterFailure_hostWord (why : Failure) (pos : ExecPos) (x : ExecRun) (s : State) :
    (enterFailure why pos x s).hostWord = s.hostWord := rfl
@[simp] theorem enterFailure_result (why : Failure) (pos : ExecPos) (x : ExecRun) (s : State) :
    (enterFailure why pos x s).result = s.result := rfl
@[simp] theorem enterFailure_draws (why : Failure) (pos : ExecPos) (x : ExecRun) (s : State) :
    (enterFailure why pos x s).draws = s.draws := rfl
@[simp] theorem enterFailure_agenda (why : Failure) (pos : ExecPos) (x : ExecRun) (s : State) :
    (enterFailure why pos x s).agenda = s.agenda := rfl

@[simp] theorem returnSuccess_config (x : ExecRun) (s : State) :
    (returnSuccess x s).config = s.config := rfl
@[simp] theorem returnSuccess_regs (x : ExecRun) (s : State) :
    (returnSuccess x s).regs = s.regs := rfl
@[simp] theorem returnSuccess_fifo (x : ExecRun) (s : State) :
    (returnSuccess x s).fifo = s.fifo := rfl
@[simp] theorem returnSuccess_ce (x : ExecRun) (s : State) :
    (returnSuccess x s).ce = s.ce := rfl
@[simp] theorem returnSuccess_de (x : ExecRun) (s : State) :
    (returnSuccess x s).de = s.de := rfl
@[simp] theorem returnSuccess_card (x : ExecRun) (s : State) :
    (returnSuccess x s).card = s.card := rfl
@[simp] theorem returnSuccess_pc (x : ExecRun) (s : State) :
    (returnSuccess x s).pc = .idle := rfl
@[simp] theorem returnSuccess_ctrl (x : ExecRun) (s : State) :
    (returnSuccess x s).ctrl = s.ctrl := rfl
@[simp] theorem returnSuccess_session (x : ExecRun) (s : State) :
    (returnSuccess x s).session = .idle := rfl
@[simp] theorem returnSuccess_buffer (x : ExecRun) (s : State) :
    (returnSuccess x s).buffer = s.buffer := rfl
@[simp] theorem returnSuccess_clock (x : ExecRun) (s : State) :
    (returnSuccess x s).clock = s.clock := rfl
@[simp] theorem returnSuccess_gpio (x : ExecRun) (s : State) :
    (returnSuccess x s).gpio = s.gpio := rfl
@[simp] theorem returnSuccess_hostWord (x : ExecRun) (s : State) :
    (returnSuccess x s).hostWord = s.hostWord := rfl
@[simp] theorem returnSuccess_result (x : ExecRun) (s : State) :
    (returnSuccess x s).result = some (.execute ⟨.success x.resp, x.resp, x.rem⟩) := rfl
@[simp] theorem returnSuccess_draws (x : ExecRun) (s : State) :
    (returnSuccess x s).draws = s.draws := rfl
@[simp] theorem returnSuccess_agenda (x : ExecRun) (s : State) :
    (returnSuccess x s).agenda = s.agenda := rfl

@[simp] theorem beginExecute_config (c : Command) (d : Option Descriptor) (n : Nat) (s : State) :
    (beginExecute c d n s).config = s.config := rfl
@[simp] theorem beginExecute_regs (c : Command) (d : Option Descriptor) (n : Nat) (s : State) :
    (beginExecute c d n s).regs = s.regs := rfl
@[simp] theorem beginExecute_fifo (c : Command) (d : Option Descriptor) (n : Nat) (s : State) :
    (beginExecute c d n s).fifo = s.fifo := rfl
@[simp] theorem beginExecute_ce (c : Command) (d : Option Descriptor) (n : Nat) (s : State) :
    (beginExecute c d n s).ce = s.ce := rfl
@[simp] theorem beginExecute_de (c : Command) (d : Option Descriptor) (n : Nat) (s : State) :
    (beginExecute c d n s).de = s.de := rfl
@[simp] theorem beginExecute_card (c : Command) (d : Option Descriptor) (n : Nat) (s : State) :
    (beginExecute c d n s).card = s.card := rfl
@[simp] theorem beginExecute_pc (c : Command) (d : Option Descriptor) (n : Nat) (s : State) :
    (beginExecute c d n s).pc = .commandPhase := rfl
@[simp] theorem beginExecute_ctrl (c : Command) (d : Option Descriptor) (n : Nat) (s : State) :
    (beginExecute c d n s).ctrl = s.ctrl := rfl
@[simp] theorem beginExecute_session (c : Command) (d : Option Descriptor) (n : Nat) (s : State) :
    (beginExecute c d n s).session = .execute (newRun c d n) := rfl
@[simp] theorem beginExecute_buffer (c : Command) (d : Option Descriptor) (n : Nat) (s : State) :
    (beginExecute c d n s).buffer = s.buffer := rfl
@[simp] theorem beginExecute_clock (c : Command) (d : Option Descriptor) (n : Nat) (s : State) :
    (beginExecute c d n s).clock = s.clock := rfl
@[simp] theorem beginExecute_gpio (c : Command) (d : Option Descriptor) (n : Nat) (s : State) :
    (beginExecute c d n s).gpio = s.gpio := rfl
@[simp] theorem beginExecute_hostWord (c : Command) (d : Option Descriptor) (n : Nat) (s : State) :
    (beginExecute c d n s).hostWord = s.hostWord := rfl
@[simp] theorem beginExecute_result (c : Command) (d : Option Descriptor) (n : Nat) (s : State) :
    (beginExecute c d n s).result = none := rfl
@[simp] theorem beginExecute_draws (c : Command) (d : Option Descriptor) (n : Nat) (s : State) :
    (beginExecute c d n s).draws = s.draws := rfl
@[simp] theorem beginExecute_agenda (c : Command) (d : Option Descriptor) (n : Nat) (s : State) :
    (beginExecute c d n s).agenda = s.agenda := rfl

@[simp] theorem State.pushOperation_config (s : State) (e : Encoded) :
    (s.pushOperation e).config = s.config := rfl
@[simp] theorem State.pushOperation_regs (s : State) (e : Encoded) :
    (s.pushOperation e).regs = s.regs := rfl
@[simp] theorem State.pushOperation_fifo (s : State) (e : Encoded) :
    (s.pushOperation e).fifo = s.fifo := rfl
@[simp] theorem State.pushOperation_ce (s : State) (e : Encoded) :
    (s.pushOperation e).ce = s.ce := rfl
@[simp] theorem State.pushOperation_de (s : State) (e : Encoded) :
    (s.pushOperation e).de = s.de := rfl
@[simp] theorem State.pushOperation_card (s : State) (e : Encoded) :
    (s.pushOperation e).card = s.card := rfl
@[simp] theorem State.pushOperation_pc (s : State) (e : Encoded) :
    (s.pushOperation e).pc = s.pc := rfl
@[simp] theorem State.pushOperation_ctrl (s : State) (e : Encoded) :
    (s.pushOperation e).ctrl = s.ctrl := rfl
@[simp] theorem State.pushOperation_session (s : State) (e : Encoded) :
    (s.pushOperation e).session = s.session := rfl
@[simp] theorem State.pushOperation_buffer (s : State) (e : Encoded) :
    (s.pushOperation e).buffer = s.buffer := rfl
@[simp] theorem State.pushOperation_clock (s : State) (e : Encoded) :
    (s.pushOperation e).clock = s.clock := rfl
@[simp] theorem State.pushOperation_gpio (s : State) (e : Encoded) :
    (s.pushOperation e).gpio = s.gpio := rfl
@[simp] theorem State.pushOperation_hostWord (s : State) (e : Encoded) :
    (s.pushOperation e).hostWord = s.hostWord := rfl
@[simp] theorem State.pushOperation_result (s : State) (e : Encoded) :
    (s.pushOperation e).result = s.result := rfl
@[simp] theorem State.pushOperation_draws (s : State) (e : Encoded) :
    (s.pushOperation e).draws = s.draws := rfl
@[simp] theorem State.pushOperation_agenda (s : State) (e : Encoded) :
    (s.pushOperation e).agenda = .op e :: s.agenda := rfl

@[simp] theorem responseArrives_config (ws : List Word) (a b c d : Option Word) (s : State) :
    (responseArrives ws a b c d s).config = s.config := rfl
@[simp] theorem responseArrives_regs (ws : List Word) (a b c d : Option Word) (s : State) :
    (responseArrives ws a b c d s).regs = { s.regs with rsp0 := a, rsp1 := b, rsp2 := c, rsp3 := d, csta := { s.regs.csta with rspfin := true } } := rfl
@[simp] theorem responseArrives_fifo (ws : List Word) (a b c d : Option Word) (s : State) :
    (responseArrives ws a b c d s).fifo = s.fifo := rfl
@[simp] theorem responseArrives_ce (ws : List Word) (a b c d : Option Word) (s : State) :
    (responseArrives ws a b c d s).ce = .idle := rfl
@[simp] theorem responseArrives_de (ws : List Word) (a b c d : Option Word) (s : State) :
    (responseArrives ws a b c d s).de = startPhase .tx s.de := rfl
@[simp] theorem responseArrives_card (ws : List Word) (a b c d : Option Word) (s : State) :
    (responseArrives ws a b c d s).card = s.card ++ [.rspFrame ws] := rfl
@[simp] theorem responseArrives_pc (ws : List Word) (a b c d : Option Word) (s : State) :
    (responseArrives ws a b c d s).pc = s.pc := rfl
@[simp] theorem responseArrives_ctrl (ws : List Word) (a b c d : Option Word) (s : State) :
    (responseArrives ws a b c d s).ctrl = s.ctrl := rfl
@[simp] theorem responseArrives_session (ws : List Word) (a b c d : Option Word) (s : State) :
    (responseArrives ws a b c d s).session = s.session := rfl
@[simp] theorem responseArrives_buffer (ws : List Word) (a b c d : Option Word) (s : State) :
    (responseArrives ws a b c d s).buffer = s.buffer := rfl
@[simp] theorem responseArrives_clock (ws : List Word) (a b c d : Option Word) (s : State) :
    (responseArrives ws a b c d s).clock = s.clock := rfl
@[simp] theorem responseArrives_gpio (ws : List Word) (a b c d : Option Word) (s : State) :
    (responseArrives ws a b c d s).gpio = s.gpio := rfl
@[simp] theorem responseArrives_hostWord (ws : List Word) (a b c d : Option Word) (s : State) :
    (responseArrives ws a b c d s).hostWord = s.hostWord := rfl
@[simp] theorem responseArrives_result (ws : List Word) (a b c d : Option Word) (s : State) :
    (responseArrives ws a b c d s).result = s.result := rfl
@[simp] theorem responseArrives_draws (ws : List Word) (a b c d : Option Word) (s : State) :
    (responseArrives ws a b c d s).draws = s.draws := rfl
@[simp] theorem responseArrives_agenda (ws : List Word) (a b c d : Option Word) (s : State) :
    (responseArrives ws a b c d s).agenda = s.agenda := rfl

end Sys2Proof.Machine
end

