-- ==== Sys2Proof/Laws/PerInstr.lean ====
section
/-! SUPPORT. The opcode table, row by row: the encoded form of every operation is of its row's format and has its row's
bits under its row's mask (spec/opcode_table.json; R110 to R112, R114, R119, R126). -/

namespace Sys2Proof.Laws.TableRow

open Sys2Proof Sys2Proof.Machine

/-- The formats of the table. -/
inductive Format where
  | ra | cn | cc | dc | req | ev
  deriving DecidableEq, Repr

/-- A row: its format, its match and its mask. -/
structure Row where
  format : Format
  bits : Word
  mask : Word
  deriving DecidableEq, Repr

/-- The format of an encoded form and the word the table indexes it by; an access of another width than 32 bits has
none. -/
def index : Encoded → Option (Format × Word)
  | .access dir width offset _ =>
    if width = 32 then
      some (.ra, (match dir with | .read => 0#32 | .write => 0x80#32) ||| BitVec.ofNat 32 offset)
    else none
  | .cn w => some (.cn, w)
  | .cc w => some (.cc, w)
  | .dc w => some (.dc, w)
  | .req selector _ => some (.req, selector.setWidth 32)
  | .ev number _ => some (.ev, number.setWidth 32)

/-- The row of spec/opcode_table.json that an operation stands for. -/
def row : Instr → Row
  | .rdCon => ⟨.ra, 0x00000000#32, 0x000000FF#32⟩
  | .wrCon _ => ⟨.ra, 0x00000080#32, 0x000000FF#32⟩
  | .rdPre => ⟨.ra, 0x00000004#32, 0x000000FF#32⟩
  | .wrPre _ => ⟨.ra, 0x00000084#32, 0x000000FF#32⟩
  | .rdCarg => ⟨.ra, 0x00000008#32, 0x000000FF#32⟩
  | .wrCarg _ => ⟨.ra, 0x00000088#32, 0x000000FF#32⟩
  | .rdCcon => ⟨.ra, 0x0000000C#32, 0x000000FF#32⟩
  | .wrCcon _ => ⟨.ra, 0x0000008C#32, 0x000000FF#32⟩
  | .rdCsta => ⟨.ra, 0x00000010#32, 0x000000FF#32⟩
  | .wrCsta _ => ⟨.ra, 0x00000090#32, 0x000000FF#32⟩
  | .rdRsp0 => ⟨.ra, 0x00000014#32, 0x000000FF#32⟩
  | .wrRsp0 _ => ⟨.ra, 0x00000094#32, 0x000000FF#32⟩
  | .rdRsp1 => ⟨.ra, 0x00000018#32, 0x000000FF#32⟩
  | .wrRsp1 _ => ⟨.ra, 0x00000098#32, 0x000000FF#32⟩
  | .rdRsp2 => ⟨.ra, 0x0000001C#32, 0x000000FF#32⟩
  | .wrRsp2 _ => ⟨.ra, 0x0000009C#32, 0x000000FF#32⟩
  | .rdRsp3 => ⟨.ra, 0x00000020#32, 0x000000FF#32⟩
  | .wrRsp3 _ => ⟨.ra, 0x000000A0#32, 0x000000FF#32⟩
  | .rdDtimer => ⟨.ra, 0x00000024#32, 0x000000FF#32⟩
  | .wrDtimer _ => ⟨.ra, 0x000000A4#32, 0x000000FF#32⟩
  | .rdBsize => ⟨.ra, 0x00000028#32, 0x000000FF#32⟩
  | .wrBsize _ => ⟨.ra, 0x000000A8#32, 0x000000FF#32⟩
  | .rdDcon => ⟨.ra, 0x0000002C#32, 0x000000FF#32⟩
  | .wrDcon _ => ⟨.ra, 0x000000AC#32, 0x000000FF#32⟩
  | .rdDcnt => ⟨.ra, 0x00000030#32, 0x000000FF#32⟩
  | .wrDcnt _ => ⟨.ra, 0x000000B0#32, 0x000000FF#32⟩
  | .rdDsta => ⟨.ra, 0x00000034#32, 0x000000FF#32⟩
  | .wrDsta _ => ⟨.ra, 0x000000B4#32, 0x000000FF#32⟩
  | .rdFsta => ⟨.ra, 0x00000038#32, 0x000000FF#32⟩
  | .wrFsta _ => ⟨.ra, 0x000000B8#32, 0x000000FF#32⟩
  | .rdImsk => ⟨.ra, 0x0000003C#32, 0x000000FF#32⟩
  | .wrImsk _ => ⟨.ra, 0x000000BC#32, 0x000000FF#32⟩
  | .rdDat => ⟨.ra, 0x00000040#32, 0x000000FF#32⟩
  | .wrDat _ => ⟨.ra, 0x000000C0#32, 0x000000FF#32⟩
  | .conReset => ⟨.cn, 0x00000100#32, 0x00000100#32⟩
  | .conCfg _ _ => ⟨.cn, 0x00000000#32, 0x00000100#32⟩
  | .cmdNorsp _ => ⟨.cc, 0x00000140#32, 0x000007C0#32⟩
  | .cmdShort _ => ⟨.cc, 0x00000340#32, 0x000007C0#32⟩
  | .cmdLong _ => ⟨.cc, 0x00000740#32, 0x000007C0#32⟩
  | .cconStore _ _ _ _ => ⟨.cc, 0x00000000#32, 0x00000100#32⟩
  | .dataRx _ _ => ⟨.dc, 0x008A6000#32, 0xFFFEF800#32⟩
  | .dataTx _ _ => ⟨.dc, 0x00927000#32, 0xFFFEF800#32⟩
  | .dataOff => ⟨.dc, 0x00000000#32, 0xFFFFFFFF#32⟩
  | .execute _ _ => ⟨.req, 0x00000000#32, 0x0000000F#32⟩
  | .issue _ _ => ⟨.req, 0x00000001#32, 0x0000000F#32⟩
  | .readResponse _ => ⟨.req, 0x00000002#32, 0x0000000F#32⟩
  | .transfer _ => ⟨.req, 0x00000003#32, 0x0000000F#32⟩
  | .waitCompletion => ⟨.req, 0x00000004#32, 0x0000000F#32⟩
  | .probe _ => ⟨.req, 0x00000005#32, 0x0000000F#32⟩
  | .setClock _ => ⟨.req, 0x00000006#32, 0x0000000F#32⟩
  | .cardPresent => ⟨.req, 0x00000007#32, 0x0000000F#32⟩
  | .writeProtected => ⟨.req, 0x00000008#32, 0x0000000F#32⟩
  | .evCmdSent => ⟨.ev, 0x00000000#32, 0x0000000F#32⟩
  | .evRspShort _ => ⟨.ev, 0x00000001#32, 0x0000000F#32⟩
  | .evRspLong _ _ _ _ => ⟨.ev, 0x00000002#32, 0x0000000F#32⟩
  | .evRspTimeout => ⟨.ev, 0x00000003#32, 0x0000000F#32⟩
  | .evRxBytes _ => ⟨.ev, 0x00000004#32, 0x0000000F#32⟩
  | .evTxBytes _ => ⟨.ev, 0x00000005#32, 0x0000000F#32⟩
  | .evDataFinish => ⟨.ev, 0x00000006#32, 0x0000000F#32⟩
  | .evCrcFail _ => ⟨.ev, 0x00000007#32, 0x0000000F#32⟩
  | .evRxcrcFail _ => ⟨.ev, 0x00000008#32, 0x0000000F#32⟩
  | .evDataTimeout _ => ⟨.ev, 0x00000009#32, 0x0000000F#32⟩
  | .evFifoFail _ => ⟨.ev, 0x0000000A#32, 0x0000000F#32⟩

/-- Under the default layout, for which the table is written, the encoded form shows the row's format and, under its mask, the row's bits. -/
def Statement (i : Instr) : Prop :=
  ∃ w, index (encode Config.reference i) = some ((row i).format, w) ∧ w &&& (row i).mask = (row i).bits

/-- The statement of an operation from its encoded form and its row, both written out. -/
theorem of_row {i : Instr} {f : Format} {w bits mask : Word} (he : index (encode Config.reference i) = some (f, w))
    (hr : row i = ⟨f, bits, mask⟩) (h : w &&& mask = bits) : Statement i := by
  refine ⟨w, ?_, ?_⟩
  · rw [he, hr]
  · rw [hr]; exact h

/-! The control words of the default layout under their masks, whatever their fields hold. -/

theorem ccon_under_mask (index : BitVec 6) (sh cs wr lr : Bool) :
    cconFormWord Config.reference.layout.ccon index sh cs wr lr &&& 0x000007C0#32 =
      cconFormWord Config.reference.layout.ccon 0#6 sh cs wr lr := by
  apply word_ext
  intro n hn
  rw [BitVec.getLsbD_and, cconFormWord, cconFormWord, getLsbD_wordOf _ n hn, getLsbD_wordOf _ n hn]
  revert sh cs wr lr
  simp only [List.any_cons, List.any_nil, flag, Config.CconLayout.indexField, Config.reference, Config.indexWidth]
  interval_cases n <;> simp

theorem ccon_start (index : BitVec 6) (sh wr lr : Bool) :
    cconFormWord Config.reference.layout.ccon index sh false wr lr &&& 0x00000100#32 = 0x00000000#32 := by
  apply word_ext
  intro n hn
  rw [BitVec.getLsbD_and, cconFormWord, getLsbD_wordOf _ n hn]
  simp only [List.any_cons, List.any_nil, flag, Config.CconLayout.indexField, Config.reference, Config.indexWidth]
  interval_cases n <;> simp [ofFlag]

theorem dcon_under_mask (dir : Direction) (blknum : BitVec 11) (widebus : Bool) :
    dataFormWord Config.reference.layout.dcon dir blknum widebus &&& 0xFFFEF800#32 =
      dataFormWord Config.reference.layout.dcon dir 0#11 false :=
  dataFormWord_under_mask admissible_reference.dcon dir blknum widebus

theorem rdCon : Statement .rdCon := of_row rfl rfl (by decide)
theorem wrCon (v : Word) : Statement (.wrCon v) := of_row rfl rfl (by decide)
theorem rdPre : Statement .rdPre := of_row rfl rfl (by decide)
theorem wrPre (v : Word) : Statement (.wrPre v) := of_row rfl rfl (by decide)
theorem rdCarg : Statement .rdCarg := of_row rfl rfl (by decide)
theorem wrCarg (v : Word) : Statement (.wrCarg v) := of_row rfl rfl (by decide)
theorem rdCcon : Statement .rdCcon := of_row rfl rfl (by decide)
theorem wrCcon (v : Word) : Statement (.wrCcon v) := of_row rfl rfl (by decide)
theorem rdCsta : Statement .rdCsta := of_row rfl rfl (by decide)
theorem wrCsta (v : Word) : Statement (.wrCsta v) := of_row rfl rfl (by decide)
theorem rdRsp0 : Statement .rdRsp0 := of_row rfl rfl (by decide)
theorem wrRsp0 (v : Word) : Statement (.wrRsp0 v) := of_row rfl rfl (by decide)
theorem rdRsp1 : Statement .rdRsp1 := of_row rfl rfl (by decide)
theorem wrRsp1 (v : Word) : Statement (.wrRsp1 v) := of_row rfl rfl (by decide)
theorem rdRsp2 : Statement .rdRsp2 := of_row rfl rfl (by decide)
theorem wrRsp2 (v : Word) : Statement (.wrRsp2 v) := of_row rfl rfl (by decide)
theorem rdRsp3 : Statement .rdRsp3 := of_row rfl rfl (by decide)
theorem wrRsp3 (v : Word) : Statement (.wrRsp3 v) := of_row rfl rfl (by decide)
theorem rdDtimer : Statement .rdDtimer := of_row rfl rfl (by decide)
theorem wrDtimer (v : Word) : Statement (.wrDtimer v) := of_row rfl rfl (by decide)
theorem rdBsize : Statement .rdBsize := of_row rfl rfl (by decide)
theorem wrBsize (v : Word) : Statement (.wrBsize v) := of_row rfl rfl (by decide)
theorem rdDcon : Statement .rdDcon := of_row rfl rfl (by decide)
theorem wrDcon (v : Word) : Statement (.wrDcon v) := of_row rfl rfl (by decide)
theorem rdDcnt : Statement .rdDcnt := of_row rfl rfl (by decide)
theorem wrDcnt (v : Word) : Statement (.wrDcnt v) := of_row rfl rfl (by decide)
theorem rdDsta : Statement .rdDsta := of_row rfl rfl (by decide)
theorem wrDsta (v : Word) : Statement (.wrDsta v) := of_row rfl rfl (by decide)
theorem rdFsta : Statement .rdFsta := of_row rfl rfl (by decide)
theorem wrFsta (v : Word) : Statement (.wrFsta v) := of_row rfl rfl (by decide)
theorem rdImsk : Statement .rdImsk := of_row rfl rfl (by decide)
theorem wrImsk (v : Word) : Statement (.wrImsk v) := of_row rfl rfl (by decide)
theorem rdDat : Statement .rdDat := of_row rfl rfl (by decide)
theorem wrDat (v : Word) : Statement (.wrDat v) := of_row rfl rfl (by decide)
theorem conReset : Statement .conReset := of_row rfl rfl (by decide)
theorem conCfg (clktype fiforeset : Bool) : Statement (.conCfg clktype fiforeset) :=
  ⟨_, rfl, by cases clktype <;> cases fiforeset <;> decide⟩
theorem cmdNorsp (index : BitVec 6) : Statement (.cmdNorsp index) :=
  ⟨_, rfl, ccon_under_mask index true true false false⟩
theorem cmdShort (index : BitVec 6) : Statement (.cmdShort index) :=
  ⟨_, rfl, ccon_under_mask index true true true false⟩
theorem cmdLong (index : BitVec 6) : Statement (.cmdLong index) :=
  ⟨_, rfl, ccon_under_mask index true true true true⟩
theorem cconStore (index : BitVec 6) (senderhost waitrsp longrsp : Bool) :
    Statement (.cconStore index senderhost waitrsp longrsp) :=
  ⟨_, rfl, ccon_start index senderhost waitrsp longrsp⟩
theorem dataRx (blknum : BitVec 11) (widebus : Bool) : Statement (.dataRx blknum widebus) :=
  ⟨_, rfl, dcon_under_mask .rx blknum widebus⟩
theorem dataTx (blknum : BitVec 11) (widebus : Bool) : Statement (.dataTx blknum widebus) :=
  ⟨_, rfl, dcon_under_mask .tx blknum widebus⟩
theorem dataOff : Statement .dataOff := of_row rfl rfl (by decide)
theorem execute (cmd : Command) (data : Option Descriptor) : Statement (.execute cmd data) :=
  of_row rfl rfl (by decide)
theorem issue (cmd : Command) (data : Option Descriptor) : Statement (.issue cmd data) := of_row rfl rfl (by decide)
theorem readResponse (kind : RspKind) : Statement (.readResponse kind) := of_row rfl rfl (by decide)
theorem transfer (data : Descriptor) : Statement (.transfer data) := of_row rfl rfl (by decide)
theorem waitCompletion : Statement .waitCompletion := of_row rfl rfl (by decide)
theorem probe (binding : Binding) : Statement (.probe binding) := of_row rfl rfl (by decide)
theorem setClock (target : Nat) : Statement (.setClock target) := of_row rfl rfl (by decide)
theorem cardPresent : Statement .cardPresent := of_row rfl rfl (by decide)
theorem writeProtected : Statement .writeProtected := of_row rfl rfl (by decide)
theorem evCmdSent : Statement .evCmdSent := of_row rfl rfl (by decide)
theorem evRspShort (w : Word) : Statement (.evRspShort w) := of_row rfl rfl (by decide)
theorem evRspLong (w0 w1 w2 w3 : Word) : Statement (.evRspLong w0 w1 w2 w3) := of_row rfl rfl (by decide)
theorem evRspTimeout : Statement .evRspTimeout := of_row rfl rfl (by decide)
theorem evRxBytes (bs : List Byte) : Statement (.evRxBytes bs) := of_row rfl rfl (by decide)
theorem evTxBytes (k : Nat) : Statement (.evTxBytes k) := of_row rfl rfl (by decide)
theorem evDataFinish : Statement .evDataFinish := of_row rfl rfl (by decide)
theorem evCrcFail (stops : Bool) : Statement (.evCrcFail stops) := of_row rfl rfl (by decide)
theorem evRxcrcFail (stops : Bool) : Statement (.evRxcrcFail stops) := of_row rfl rfl (by decide)
theorem evDataTimeout (stops : Bool) : Statement (.evDataTimeout stops) := of_row rfl rfl (by decide)
theorem evFifoFail (stops : Bool) : Statement (.evFifoFail stops) := of_row rfl rfl (by decide)

end Sys2Proof.Laws.TableRow
end

