-- ==== Sys2Proof/Laws/Session.lean ====
section
/-! SUPPORT. What the sequencer's own steps can change: never the block, the card record or the collaborators. The register
accesses it makes are the operations of level L0, and their lemmas are in Laws/Ops.lean. -/

namespace Sys2Proof.Machine

open Host

/-- Two states with the same configuration, block, card record, collaborators, agenda, host word and draw count. -/
structure SameBlock (s t : State) : Prop where
  config : t.config = s.config
  regs : t.regs = s.regs
  fifo : t.fifo = s.fifo
  ce : t.ce = s.ce
  de : t.de = s.de
  card : t.card = s.card
  clock : t.clock = s.clock
  gpio : t.gpio = s.gpio
  hostWord : t.hostWord = s.hostWord
  draws : t.draws = s.draws
  agenda : t.agenda = s.agenda

theorem SameBlock.refl (s : State) : SameBlock s s := ⟨rfl, rfl, rfl, rfl, rfl, rfl, rfl, rfl, rfl, rfl, rfl⟩

theorem SameBlock.trans {s t u : State} (h : SameBlock s t) (k : SameBlock t u) : SameBlock s u :=
  ⟨k.config.trans h.config, k.regs.trans h.regs, k.fifo.trans h.fifo, k.ce.trans h.ce, k.de.trans h.de, k.card.trans h.card,
    k.clock.trans h.clock, k.gpio.trans h.gpio, k.hostWord.trans h.hostWord, k.draws.trans h.draws,
    k.agenda.trans h.agenda⟩

/-! ## The sequencer's updates keep the block -/

theorem sameBlock_setPc (s : State) (v : Phase) : SameBlock s (s.setPc v) := ⟨rfl, rfl, rfl, rfl, rfl, rfl, rfl, rfl, rfl, rfl, rfl⟩
theorem sameBlock_setCtrl (s : State) (v : Option ControllerState) : SameBlock s (s.setCtrl v) :=
  ⟨rfl, rfl, rfl, rfl, rfl, rfl, rfl, rfl, rfl, rfl, rfl⟩
theorem sameBlock_setSession (s : State) (v : Session) : SameBlock s (s.setSession v) :=
  ⟨rfl, rfl, rfl, rfl, rfl, rfl, rfl, rfl, rfl, rfl, rfl⟩
theorem sameBlock_setBuffer (s : State) (v : Memory) : SameBlock s (s.setBuffer v) :=
  ⟨rfl, rfl, rfl, rfl, rfl, rfl, rfl, rfl, rfl, rfl, rfl⟩
theorem sameBlock_setResult (s : State) (v : Option SessionResult) : SameBlock s (s.setResult v) :=
  ⟨rfl, rfl, rfl, rfl, rfl, rfl, rfl, rfl, rfl, rfl, rfl⟩
theorem sameBlock_startSession (s : State) (v : Session) : SameBlock s (s.startSession v) :=
  ⟨rfl, rfl, rfl, rfl, rfl, rfl, rfl, rfl, rfl, rfl, rfl⟩
theorem sameBlock_endSession (s : State) (v : SessionResult) : SameBlock s (s.endSession v) :=
  ⟨rfl, rfl, rfl, rfl, rfl, rfl, rfl, rfl, rfl, rfl, rfl⟩
theorem sameBlock_continueAt (s : State) (x : ExecRun) (pos : ExecPos) : SameBlock s (s.continueAt x pos) :=
  ⟨rfl, rfl, rfl, rfl, rfl, rfl, rfl, rfl, rfl, rfl, rfl⟩
theorem sameBlock_failExecute (why : Failure) (x : ExecRun) (s : State) :
    SameBlock s (failExecute why x s) := ⟨rfl, rfl, rfl, rfl, rfl, rfl, rfl, rfl, rfl, rfl, rfl⟩
theorem sameBlock_returnSuccess (x : ExecRun) (s : State) : SameBlock s (returnSuccess x s) :=
  ⟨rfl, rfl, rfl, rfl, rfl, rfl, rfl, rfl, rfl, rfl, rfl⟩
theorem sameBlock_beginExecute (cmd : Command) (data : Option Descriptor) (rem : Nat) (s : State) :
    SameBlock s (beginExecute cmd data rem s) := ⟨rfl, rfl, rfl, rfl, rfl, rfl, rfl, rfl, rfl, rfl, rfl⟩

theorem sameBlock_returnFailure (x : ExecRun) (s : State) : SameBlock s (returnFailure x s) := by
  unfold returnFailure
  split
  · exact (sameBlock_endSession _ _).trans (sameBlock_setPc _ _)
  · exact .refl s

theorem sameBlock_issueReturned (r : IssueResult) (x : ExecRun) (s : State) :
    SameBlock s (issueReturned r x s) := by
  cases r
  · exact sameBlock_continueAt _ _ _
  · exact sameBlock_continueAt _ _ _
  · exact sameBlock_failExecute _ _ _

theorem sameBlock_responseReturned (resp : Response) (x : ExecRun) (s : State) :
    SameBlock s (responseReturned resp x s) := by
  unfold responseReturned
  split <;> exact (sameBlock_continueAt _ _ _).trans (sameBlock_setPc _ _)

theorem sameBlock_transferReturned (r : TransferResult) (x : ExecRun) (s : State) :
    SameBlock s (transferReturned r x s) := by
  unfold transferReturned
  split
  · exact (sameBlock_continueAt _ _ _).trans (sameBlock_setPc _ _)
  · split <;> exact sameBlock_failExecute _ _ _

theorem sameBlock_waitReturned (r : WaitResult) (x : ExecRun) (s : State) :
    SameBlock s (waitReturned r x s) := by
  cases r
  · exact sameBlock_continueAt _ _ _
  · exact sameBlock_failExecute _ _ _

theorem sameBlock_loopHead (x : ExecRun) (s : State) : SameBlock s (loopHead x s) := by
  unfold loopHead
  split
  · exact sameBlock_transferReturned _ _ _
  · split
    · exact sameBlock_continueAt _ _ _
    · split
      · exact sameBlock_transferReturned _ _ _
      · exact sameBlock_continueAt _ _ _

theorem sameBlock_afterPollCsta (v : Word) (x : ExecRun) (s : State) :
    SameBlock s (afterPollCsta v x s) := by
  unfold afterPollCsta
  split
  · exact sameBlock_continueAt _ _ _
  · split
    · exact sameBlock_issueReturned _ _ _
    · split
      · exact sameBlock_issueReturned _ _ _
      · exact sameBlock_continueAt _ _ _

theorem sameBlock_afterPollDsta (v : Word) (x : ExecRun) (s : State) :
    SameBlock s (afterPollDsta v x s) := by
  unfold afterPollDsta
  split
  · exact sameBlock_continueAt _ _ _
  · split
    · exact sameBlock_waitReturned _ _ _
    · split
      · exact sameBlock_waitReturned _ _ _
      · exact sameBlock_continueAt _ _ _

theorem sameBlock_afterStatus (x : ExecRun) (s : State) : SameBlock s (afterStatus x s) := by
  unfold afterStatus
  split
  · exact sameBlock_transferReturned _ _ _
  · split
    · exact .refl s
    · split
      · split
        · exact sameBlock_loopHead _ _
        · exact sameBlock_continueAt _ _ _
      · split
        · exact sameBlock_continueAt _ _ _
        · exact sameBlock_loopHead _ _

theorem sameBlock_afterMove (v : Word) (x : ExecRun) (s : State) :
    SameBlock s (afterMove v x s) := by
  unfold afterMove
  split
  · exact .refl s
  · split
    · exact (sameBlock_setBuffer _ _).trans (sameBlock_loopHead _ _)
    · exact sameBlock_loopHead _ _

theorem sameBlock_afterExecuteAccess (v : Word) (x : ExecRun) (s : State) :
    SameBlock s (afterExecuteAccess v x s) := by
  unfold afterExecuteAccess
  split <;> first
    | exact sameBlock_continueAt _ _ _
    | exact sameBlock_afterPollCsta _ _ _
    | exact sameBlock_issueReturned _ _ _
    | exact sameBlock_responseReturned _ _ _
    | exact sameBlock_afterStatus _ _
    | exact sameBlock_afterMove _ _ _
    | exact sameBlock_afterPollDsta _ _ _
    | exact sameBlock_waitReturned _ _ _
    | exact .refl s
    | skip
  split
  · exact sameBlock_continueAt _ _ _
  · exact sameBlock_responseReturned _ _ _

theorem sameBlock_afterProbeAccess (binding : Binding) (handle : ClockHandle) (base : Nat) (pos : ProbePos) (s : State) :
    SameBlock s (afterProbeAccess binding handle base pos s) := by
  cases pos <;> first
    | exact sameBlock_setSession _ _
    | exact .refl s
    | exact (sameBlock_setCtrl _ _).trans (sameBlock_endSession _ _)

/-- What the sequencer does with an access it has performed changes nothing of the block. -/
theorem sameBlock_afterAccess (s : State) : SameBlock s (afterAccess s) := by
  unfold afterAccess
  split
  · exact .refl s
  · exact sameBlock_afterExecuteAccess _ _ _
  · exact sameBlock_afterProbeAccess _ _ _ _ _
  · exact sameBlock_setSession _ _

/-- A silent step changes nothing of the block. -/
theorem sameBlock_silentStep (s : State) : SameBlock s (silentStep s) := by
  unfold silentStep
  split
  · exact .refl s
  · split
    · exact sameBlock_returnSuccess _ _
    · exact sameBlock_returnFailure _ _
    · exact .refl s
  · exact sameBlock_setSession _ _
  · exact .refl s
  · exact (sameBlock_setCtrl _ _).trans (sameBlock_endSession _ _)
  · exact .refl s

/-! ## Starting an operation, and the calls of the sub-steps -/

theorem startRefusal_none {needsController : Bool} {s : State} (h : startRefusal needsController s = none) :
    s.session = .idle ∧ s.pc = .idle ∧ (needsController = true → s.ctrl.isSome = true) := by
  unfold startRefusal at h
  split at h
  · next hs =>
    refine ⟨hs.1, hs.2, fun hn => ?_⟩
    cases hc : s.ctrl with
    | none => simp [hn, hc] at h
    | some c => rfl
  · simp at h

/-- A machine on which a session operation may start (R280, R346). -/
theorem startRefusal_ready {s : State} (hs : s.session = .idle) (hp : s.pc = .idle) (hc : s.ctrl.isSome = true)
    (needsController : Bool) : startRefusal needsController s = none := by
  unfold startRefusal
  rw [if_pos ⟨hs, hp⟩, if_neg]
  cases h : s.ctrl with
  | none => simp [h] at hc
  | some c => simp

/-- PROBE needs no ControllerState. -/
theorem startRefusal_probe {s : State} (hs : s.session = .idle) (hp : s.pc = .idle) : startRefusal false s = none := by
  unfold startRefusal
  rw [if_pos ⟨hs, hp⟩]
  rfl

theorem execExecute_next {cmd : Command} {data : Option Descriptor} {s t : State} (h : execExecute cmd data s = .next t) :
    (s.session = .idle ∧ s.pc = .idle ∧ s.ctrl.isSome = true) ∧
      ((data = none ∧ t = beginExecute cmd none 0 s) ∨
        (∃ d, data = some d ∧ Config.blknumMax < d.blockCount ∧
          t = enterFailure .configurationError .returnFailure (newRun cmd (some d) 0) (s.setResult none)) ∨
        (∃ d, data = some d ∧ d.blockCount ≤ Config.blknumMax ∧ contract s.config cmd d = true ∧
          t = beginExecute cmd (some d) (totalBytes d) s)) := by
  unfold execExecute at h
  split at h
  · simp at h
  · next hr =>
    have ⟨h1, h2, h3⟩ := startRefusal_none hr
    refine ⟨⟨h1, h2, h3 rfl⟩, ?_⟩
    split at h
    · exact .inl ⟨rfl, by simpa using h.symm⟩
    · next d =>
      split at h
      · next hb => exact .inr (.inl ⟨d, rfl, hb, by simpa using h.symm⟩)
      · next hb =>
        split at h
        · next hk => exact .inr (.inr ⟨d, rfl, Nat.le_of_not_lt hb, hk, by simpa using h.symm⟩)
        · simp at h

theorem execProbe_next {binding : Binding} {s t : State} (h : execProbe binding s = .next t) :
    (s.session = .idle ∧ s.pc = .idle) ∧
      ((∃ r, t = s.endSession (.probe r)) ∨
        (∃ base, t = (s.setClock { s.clock with enabled := true }).startSession
          (.probe binding ⟨binding.clockName⟩ base .softwareReset))) := by
  unfold execProbe at h
  split at h
  · simp at h
  · next hr =>
    have ⟨h1, h2, _⟩ := startRefusal_none hr
    refine ⟨⟨h1, h2⟩, ?_⟩
    split at h
    · exact .inl ⟨_, by simpa using h.symm⟩
    · split at h
      · exact .inr ⟨_, by simpa using h.symm⟩
      · exact .inl ⟨_, by simpa using h.symm⟩

theorem execSetClock_next {target : Nat} {s t : State} (h : execSetClock target s = .next t) :
    (s.session = .idle ∧ s.pc = .idle ∧ s.ctrl.isSome = true) ∧
      ((∃ r, t = s.endSession (.setClock r)) ∨
        (dividerFor s.clock.rate target ≤ s.config.layout.pre.max ∧
          t = s.startSession (.setClock (dividerFor s.clock.rate target) .writePre))) := by
  unfold execSetClock at h
  split at h
  · simp at h
  · next hr =>
    have ⟨h1, h2, h3⟩ := startRefusal_none hr
    refine ⟨⟨h1, h2, h3 rfl⟩, ?_⟩
    split at h
    · exact .inl ⟨_, by simpa using h.symm⟩
    · split at h
      · simp at h
      · next hle => exact .inr ⟨Nat.le_of_not_lt hle, by simpa using h.symm⟩

theorem execCardPresent_next {s t : State} (h : execCardPresent s = .next t) :
    (s.session = .idle ∧ s.pc = .idle ∧ s.ctrl.isSome = true) ∧ t = s.endSession (.cardPresent s.gpio.cardDetect) := by
  unfold execCardPresent at h
  split at h
  · simp at h
  · next hr =>
    have ⟨h1, h2, h3⟩ := startRefusal_none hr
    exact ⟨⟨h1, h2, h3 rfl⟩, by simpa using h.symm⟩

theorem execWriteProtected_next {s t : State} (h : execWriteProtected s = .next t) :
    (s.session = .idle ∧ s.pc = .idle ∧ s.ctrl.isSome = true) ∧ t = s.endSession (.writeProtected false) := by
  unfold execWriteProtected at h
  split at h
  · simp at h
  · next hr =>
    have ⟨h1, h2, h3⟩ := startRefusal_none hr
    exact ⟨⟨h1, h2, h3 rfl⟩, by simpa using h.symm⟩

theorem execIssue_next {cmd : Command} {data : Option Descriptor} {s t : State} (h : execIssue cmd data s = .next t) :
    ∃ x, s.session = .execute x ∧ x.pos = .callIssue ∧ x.cmd = cmd ∧ x.data = data ∧ t = s.continueAt x .clearCsta := by
  unfold execIssue at h
  split at h
  · next x hx =>
    split at h
    · next hg => exact ⟨x, hx, hg.1, hg.2.1, hg.2.2, by simpa using h.symm⟩
    · simp at h
  · simp at h

theorem execReadResponse_next {kind : RspKind} {s t : State} (h : execReadResponse kind s = .next t) :
    ∃ x, s.session = .execute x ∧ x.pos = .callReadResponse ∧ x.cmd.kind = kind ∧
      ((kind = .none ∧ t = responseReturned .none x s) ∨ (kind ≠ .none ∧ t = s.continueAt x .readRsp0)) := by
  unfold execReadResponse at h
  split at h
  · next x hx =>
    split at h
    · next hg =>
      refine ⟨x, hx, hg.1, hg.2, ?_⟩
      cases kind with
      | none => exact .inl ⟨rfl, by simpa using h.symm⟩
      | short => exact .inr ⟨by simp, by simpa using h.symm⟩
      | long => exact .inr ⟨by simp, by simpa using h.symm⟩
    · simp at h
  · simp at h

theorem execTransfer_next {d : Descriptor} {s t : State} (h : execTransfer d s = .next t) :
    ∃ x, s.session = .execute x ∧ x.pos = .callTransfer ∧ x.data = some d ∧
      t = loopHead { x with off := 0, rem := totalBytes d, i := 0 } s := by
  unfold execTransfer at h
  split at h
  · next x hx =>
    split at h
    · next hg => exact ⟨x, hx, hg.1, hg.2, by simpa using h.symm⟩
    · simp at h
  · simp at h

theorem execWaitCompletion_next {s t : State} (h : execWaitCompletion s = .next t) :
    ∃ x, s.session = .execute x ∧ x.pos = .callWait ∧ t = s.continueAt { x with n := s.config.donePollBound } .pollDsta := by
  unfold execWaitCompletion at h
  split at h
  · next x hx =>
    split at h
    · next hg => exact ⟨x, hx, hg, by simpa using h.symm⟩
    · simp at h
  · simp at h

/-- A session operation, or the call of a sub-step, changes no register, engine, FIFO byte or card item of its own. -/
theorem sessionOperation_keeps_block {i : Instr} {s t : State} (hi : hostAccess i = false) (he : i.isEvent = false)
    (h : exec i s = .next t) :
    t.config = s.config ∧ t.regs = s.regs ∧ t.fifo = s.fifo ∧ t.ce = s.ce ∧ t.de = s.de ∧ t.card = s.card := by
  have key : ∀ u, SameBlock s u → u.config = s.config ∧ u.regs = s.regs ∧ u.fifo = s.fifo ∧ u.ce = s.ce ∧ u.de = s.de ∧ u.card = s.card :=
    fun u k => ⟨k.config, k.regs, k.fifo, k.ce, k.de, k.card⟩
  cases i <;> first
    | (exact Bool.noConfusion (he : true = false)) | (exact Bool.noConfusion (hi : true = false)) | skip
  case execute cmd data =>
    obtain ⟨_, ⟨_, rfl⟩ | ⟨d, _, _, rfl⟩ | ⟨d, _, _, _, rfl⟩⟩ := execExecute_next h <;> exact ⟨rfl, rfl, rfl, rfl, rfl, rfl⟩
  case issue cmd data => obtain ⟨x, _, _, _, _, rfl⟩ := execIssue_next h; exact key _ (sameBlock_continueAt _ _ _)
  case readResponse k =>
    obtain ⟨x, _, _, _, ⟨_, rfl⟩ | ⟨_, rfl⟩⟩ := execReadResponse_next h
    · exact key _ (sameBlock_responseReturned _ _ _)
    · exact key _ (sameBlock_continueAt _ _ _)
  case transfer d => obtain ⟨x, _, _, _, rfl⟩ := execTransfer_next h; exact key _ (sameBlock_loopHead _ _)
  case waitCompletion => obtain ⟨x, _, _, rfl⟩ := execWaitCompletion_next h; exact key _ (sameBlock_continueAt _ _ _)
  case probe b => obtain ⟨_, ⟨_, rfl⟩ | ⟨_, rfl⟩⟩ := execProbe_next h <;> exact ⟨rfl, rfl, rfl, rfl, rfl, rfl⟩
  case setClock b => obtain ⟨_, ⟨_, rfl⟩ | ⟨_, rfl⟩⟩ := execSetClock_next h <;> exact ⟨rfl, rfl, rfl, rfl, rfl, rfl⟩
  case cardPresent => obtain ⟨_, rfl⟩ := execCardPresent_next h; exact ⟨rfl, rfl, rfl, rfl, rfl, rfl⟩
  case writeProtected => obtain ⟨_, rfl⟩ := execWriteProtected_next h; exact ⟨rfl, rfl, rfl, rfl, rfl, rfl⟩

/-! ## Steps -/

/-- What a turn of the sequencer can do. -/
theorem takeTurn_next {s t : State} (h : takeTurn s = .next t) :
    (∃ i u, todo s = .access i ∧ exec i s = .next u ∧ t = afterAccess u) ∨
      (∃ i, todo s = .call i ∧ exec i s = .next t) ∨ (todo s = .silent ∧ t = silentStep s) := by
  unfold takeTurn at h
  split at h
  · next i hi =>
    split at h
    · next u hu => exact .inl ⟨i, u, hi, hu, by simpa using h.symm⟩
    · simp at h
    · simp at h
  · next i hi => exact .inr (.inl ⟨i, hi, h⟩)
  · next hs => exact .inr (.inr ⟨hs, by simpa using h.symm⟩)
  · simp at h

/-- What running an encoded operation can do. -/
theorem runEncoded_next {e : Encoded} {s t : State} (h : runEncoded e s = .next t) :
    ∃ i, decode s.config e = .ok i ∧ i.wf = true ∧ mayRun i s = true ∧ exec i s = .next t := by
  unfold runEncoded at h
  split at h
  · next i hi =>
    unfold runInstr at h
    split at h
    · next hw =>
      split at h
      · next hm => exact ⟨i, hi, hw, hm, h⟩
      · simp at h
    · simp at h
  · simp at h

/-- What a step can do: a turn of the sequencer, an operation, or a change from outside the block. -/
theorem step_next {s t : State} (h : step s = .next t) :
    ∃ u, (u = s ∨ ∃ rest, u = s.setAgenda rest) ∧
      (takeTurn u = .next t ∨
        (∃ i, i.wf = true ∧ mayRun i u = true ∧ exec i u = .next t) ∨
        (∃ c, t = u.setClock c) ∨ (∃ g, t = u.setGpio g) ∨
        (∃ offset b, u.session = .idle ∧ t = u.setBuffer (writeByte u.buffer offset b))) := by
  unfold step at h
  split at h
  · exact ⟨s, .inl rfl, .inl h⟩
  · next slot rest _ =>
    refine ⟨_, .inr ⟨rest, rfl⟩, ?_⟩
    cases slot with
    | turn => exact .inl h
    | op e =>
      obtain ⟨i, _, hw, hm, hx⟩ := runEncoded_next (h : runEncoded e _ = _)
      exact .inr (.inl ⟨i, hw, hm, hx⟩)
    | clock c => exact .inr (.inr (.inl ⟨c, by simpa [runSlot] using h.symm⟩))
    | gpio g => exact .inr (.inr (.inr (.inl ⟨g, by simpa [runSlot] using h.symm⟩)))
    | callerWrite offset b =>
      unfold runSlot callerWrites at h
      simp only at h
      split at h
      · next hs => exact .inr (.inr (.inr (.inr ⟨offset, b, hs, by simpa using h.symm⟩)))
      · simp at h

end Sys2Proof.Machine
end

