-- ==== Sys2Proof/Laws/Step.lean ====
section
/-! SUPPORT. Runs of the machine, and one turn of the sequencer as an equation for each kind of turn. -/

namespace Sys2Proof.Machine

open Host

/-! ## Runs -/

/-- `k` steps, stopping at the first fault or refusal. -/
def run : Nat → State → Result
  | 0, s => .next s
  | k + 1, s =>
    match step s with
    | .next t => run k t
    | .fault why => .fault why
    | .refused why => .refused why

/-- The host's runs of the machine are these runs. -/
theorem core_run_eq (k : Nat) (s : State) : Host.Core.run Sys2Proof.core k s = run k s := by
  induction k generalizing s with
  | zero => rfl
  | succ k ih =>
    have e : (Sys2Proof.core).step s = step s := rfl
    simp only [Host.Core.run, run, e]
    cases h : step s with
    | next t => exact ih t
    | fault why => rfl
    | refused why => rfl

theorem run_succ {s t : State} (k : Nat) (h : step s = .next t) : run (k + 1) s = run k t := by
  simp [run, h]

theorem run_one {s t : State} (h : step s = .next t) : run 1 s = .next t := run_succ 0 h

theorem run_add {s t : State} (j k : Nat) (h : run j s = .next t) : run (j + k) s = run k t := by
  induction j generalizing s with
  | zero =>
    have : s = t := by simpa [run] using h
    rw [this, Nat.zero_add]
  | succ j ih =>
    rw [show j + 1 + k = (j + k) + 1 by omega]
    cases hs : step s with
    | next u =>
      rw [run_succ _ hs]
      rw [run_succ _ hs] at h
      exact ih h
    | fault why => simp [run, hs] at h
    | refused why => simp [run, hs] at h

/-! ## One turn -/

/-- With nothing on the agenda a step is a turn of the sequencer. -/
theorem step_empty {s : State} (h : s.agenda = []) : step s = takeTurn s := by
  unfold step; rw [h]

/-- A turn that performs an access. -/
theorem takeTurn_access {s t : State} {i : Instr} (h : todo s = .access i) (hx : exec i s = .next t) :
    takeTurn s = .next (afterAccess t) := by
  simp [takeTurn, h, hx]

/-- A turn that calls a sub-step. -/
theorem takeTurn_call {s : State} {i : Instr} (h : todo s = .call i) : takeTurn s = exec i s := by
  simp [takeTurn, h]

/-- A silent turn. -/
theorem takeTurn_silent {s : State} (h : todo s = .silent) : takeTurn s = .next (silentStep s) := by
  simp [takeTurn, h]

/-- What EXECUTE's turn is, by where it stands. -/
theorem todo_execute {s : State} {x : ExecRun} (h : s.session = .execute x) :
    todo s = executeTodo s.config x s.buffer := by
  simp [todo, h]

/-- After an access of EXECUTE. -/
theorem afterAccess_execute {s : State} {x : ExecRun} (h : s.session = .execute x) :
    afterAccess s = afterExecuteAccess s.hostWord x s := by
  simp [afterAccess, h]

/-- A step of EXECUTE that performs an access. -/
theorem step_execute_access {s u : State} {x : ExecRun} {i : Instr} (hs : s.session = .execute x) (ha : s.agenda = [])
    (ht : executeTodo s.config x s.buffer = .access i) (he : exec i s = .next u) (hu : u.session = s.session) :
    step s = .next (afterExecuteAccess u.hostWord x u) := by
  rw [step_empty ha, takeTurn_access (by rw [todo_execute hs]; exact ht) he,
    afterAccess_execute (x := x) (by rw [hu]; exact hs)]

/-! ## Failures of EXECUTE -/

/-- Without CLEAR_DCON_ON_FAILURE, or without a descriptor, a failure goes straight to its return (R352). -/
theorem failExecute_return {x : ExecRun} {s : State} (h : s.config.clearDconOnFailure = false ∨ x.data = none)
    (why : Failure) : failExecute why x s = (s.continueAt x .returnFailure).setPc (.failed why) := by
  rcases h with h | h <;> simp [failExecute, enterFailure, h]

/-- With CLEAR_DCON_ON_FAILURE and a descriptor a failure goes to the zero write of DCON first (R11). -/
theorem failExecute_clear {x : ExecRun} {s : State} {d : Descriptor} (h : s.config.clearDconOnFailure = true)
    (hd : x.data = some d) (why : Failure) :
    failExecute why x s = (s.continueAt x .clearDcon).setPc (.failed why) := by
  simp [failExecute, enterFailure, h, hd]

/-- The return from a failure, as a step (R358). -/
theorem step_returnFailure {x : ExecRun} {s : State} {why : Failure} (hs : s.session = .execute x)
    (hp : x.pos = .returnFailure) (hpc : s.pc = .failed why) (ha : s.agenda = []) :
    step s = .next (((s.setSession .idle).setResult (some (.execute ⟨.failure why, x.resp, x.rem⟩))).setPc .idle) := by
  rw [step_empty ha, takeTurn_silent (by rw [todo_execute hs]; simp [executeTodo, hp])]
  simp only [silentStep, hs, hp, returnFailure, hpc]
  rfl

/-! ## Operands of EXECUTE -/

/-- The contract of a descriptor, spelled out (R133). -/
theorem contract_iff (c : Config) (cmd : Command) (d : Descriptor) :
    contract c cmd d = true ↔
      totalBytes d % 4 = 0 ∧ d.bufferLength = totalBytes d ∧ (d.busWidth = 1 ∨ d.busWidth = 4) ∧ d.blockCount ≠ 0 ∧
        d.blockSize ≠ 0 ∧ d.blockSize ≤ c.layout.bsize.max ∧ ¬ (d.direction = .tx ∧ cmd.kind = .none) := by
  simp only [contract, Bool.and_eq_true, decide_eq_true_eq, Bool.not_eq_true', Bool.and_eq_false_iff,
    decide_eq_false_iff_not, List.mem_cons, List.not_mem_nil, or_false, Config.busWidths]
  tauto

/-! ## The two arming writes of ISSUE -/

/-- The word of a command, written with the command engine idle, arms it (R120, R159). -/
theorem execWrCcon_commandWord {cmd : Command} {s : State} (hc : Admissible s.config) (h : s.ce = .idle) :
    execWrCcon (commandWord s.config.layout.ccon cmd) s =
      .next ((storeCcon ⟨cmd.index, true, decide (cmd.kind ≠ .none), decide (cmd.kind = .long)⟩ s).setCe
        (.sending cmd.index s.regs.carg (decide (cmd.kind ≠ .none)) (decide (cmd.kind = .long)))) := by
  obtain ⟨h1, h2, h3, h4, h5⟩ := cconFormWord_fields hc.ccon cmd.index true true (decide (cmd.kind ≠ .none))
    (decide (cmd.kind = .long))
  have hf : commandForm s.config.layout.ccon (commandWord s.config.layout.ccon cmd) =
      some (decide (cmd.kind ≠ .none), decide (cmd.kind = .long)) := by
    unfold commandForm commandWord
    rw [if_pos ⟨cconFormWord_unnamed .., h2, by rw [h4, h5]; cases cmd.kind <;> simp⟩, h4, h5]
  have h1' : indexOf s.config.layout.ccon (commandWord s.config.layout.ccon cmd) = cmd.index := h1
  have h3' : bitAt (commandWord s.config.layout.ccon cmd) s.config.layout.ccon.cmdstart = true := h3
  simp only [execWrCcon, h3', if_true, hf, armCommand, h, h1']

/-- The word of a descriptor with blocks, written with the data engine idle and a block size, arms it (R121, R173). -/
theorem execWrDcon_dataControlWord {d : Descriptor} {s : State} (hc : Admissible s.config) (h : d.blockCount ≤ 2047)
    (h0 : d.blockCount ≠ 0) (hd : s.de = .idle) (hb : s.regs.bsize ≠ 0#32) :
    execWrDcon (dataControlWord s.config.layout.dcon d) s =
      .next ((s.setRegs { s.regs with
        dcon := armingFields s.config.layout.dcon d.direction (BitVec.ofNat 11 d.blockCount) (decide (d.busWidth = 4)) }).setDe
          (.armed d.direction (s.regs.bsize.toNat * d.blockCount))) := by
  have h1 := dataFormWord_fields hc.dcon d.direction (BitVec.ofNat 11 d.blockCount) (decide (d.busWidth = 4))
  have hz := dataFormWord_ne_zero hc.dcon d.direction (BitVec.ofNat 11 d.blockCount) (decide (d.busWidth = 4))
  have ht : (BitVec.ofNat 11 d.blockCount).toNat = d.blockCount := by rw [BitVec.toNat_ofNat]; omega
  have hn : BitVec.ofNat 11 d.blockCount ≠ 0#11 := by
    intro e
    have := congrArg BitVec.toNat e
    rw [ht] at this
    exact h0 this
  simp only [execWrDcon, dataControlWord, if_neg hz, dataForm_dataFormWord hc.dcon, h1.1, h1.2.2.1, armData, hd, hn, hb,
    false_or, if_false, ht]

end Sys2Proof.Machine
end

