-- ==== Sys2Proof/Laws/Transfer.lean ====
section
/-! SUPPORT. One iteration of the FIFO loop (R300): the two status reads, and the word it moves if it moves one. -/

namespace Sys2Proof.Machine

open Host

/-- With bytes left and no DATA_LOOP_BOUND the loop goes on (R300, R401). -/
theorem loopHead_more {x : ExecRun} {s : State} (h : x.rem ≠ 0)
    (hb : s.config.dataLoopBound = none) : loopHead x s = s.continueAt x .readDsta := by
  unfold loopHead; rw [if_neg h, hb]

/-- With no byte left the transfer has succeeded (R300). -/
theorem loopHead_done {x : ExecRun} {s : State} (h : x.rem = 0) :
    loopHead x s =
      (s.continueAt { x with t := some ⟨true, 0, 0#32⟩, rem := 0 } .callWait).setPc .completionPhase := by
  unfold loopHead; rw [if_pos h]; rfl

/-- The two status reads of one iteration: the sequencer then holds a word of DSTA that says which error flags are set and a
word of FSTA that says the occupancy and TFHALF, and nothing of the block has changed but the host word. -/
theorem statusReads {s : State} {x : ExecRun} (hc : Admissible s.config) (hs : s.session = .execute x)
    (ha : s.agenda = []) (hp : x.pos = .readDsta) (hl : s.fifo.length ≤ s.config.fifoDepth) :
    ∃ a b u, (errorBits s.config.layout.dsta a = 0#32 ↔ noErrorFlag s.regs.dsta) ∧
      errorSet s.config.layout.dsta (errorBits s.config.layout.dsta a) = errorFlags s.regs.dsta ∧
      countOf s.config.layout.fsta b = s.fifo.length ∧
      bitAt b s.config.layout.fsta.tfhalf = tfhalf s.config.txReadyLevel s.fifo ∧
      u = ((s.setHostWord b).setDraws (s.draws + 2)).setSession (.execute { x with dsta := a, pos := .readFsta }) ∧
      run 2 s = .next (afterStatus { x with dsta := a, fsta := b, pos := .readFsta } u) := by
  refine ⟨mergeDraw (maskOf s.config.layout.dsta.fields) (dstaWord s.config.layout.dsta s.regs.dsta)
      (Config.freeWord s.draws),
    mergeDraw (maskOf s.config.layout.fsta.fields) (fstaWord s.config s.fifo) (Config.freeWord (s.draws + 1)), _,
    errorBits_dsta_read hc.dsta _ _, errorSet_dsta_read hc.dsta _ _, countOf_fsta_read hc _ _ hl,
    tfhalf_fsta_read hc _ _, rfl, ?_⟩
  rw [run_succ 1 (step_execute_access (i := .rdDsta) hs ha (by simp [executeTodo, hp]) rfl rfl)]
  simp only [afterExecuteAccess, hp]
  rw [run_succ 0 (step_execute_access (i := .rdFsta)
    (x := { x with
      dsta := mergeDraw (maskOf s.config.layout.dsta.fields) (dstaWord s.config.layout.dsta s.regs.dsta)
        (Config.freeWord s.draws)
      pos := .readFsta })
    rfl (by exact ha) rfl rfl rfl)]
  rfl

/-- What an iteration keeps: everything but the FIFO, the buffer, the host word, the draws and the running operation. -/
structure SameButTransfer (s t : State) : Prop where
  config : t.config = s.config
  regs : t.regs = s.regs
  ce : t.ce = s.ce
  de : t.de = s.de
  card : t.card = s.card
  pc : t.pc = s.pc
  ctrl : t.ctrl = s.ctrl
  clock : t.clock = s.clock
  gpio : t.gpio = s.gpio
  result : t.result = s.result
  agenda : t.agenda = s.agenda

/-- What an iteration keeps of the working registers. -/
structure SameRun (x y : ExecRun) : Prop where
  cmd : y.cmd = x.cmd
  data : y.data = x.data
  resp : y.resp = x.resp
  i : y.i = x.i

/-- An iteration of the read path with a word in the FIFO: three steps move it to the buffer. -/
theorem iteration_read {s : State} {x : ExecRun} {d : Descriptor} {b0 b1 b2 b3 : Byte}
    {rest : List Byte} (hc : Admissible s.config) (hs : s.session = .execute x) (ha : s.agenda = []) (hp : x.pos = .readDsta)
    (hd : x.data = some d) (hdir : d.direction = .rx) (hoff : x.off + 4 ≤ d.bufferLength)
    (hl : s.fifo.length ≤ s.config.fifoDepth) (hf : s.fifo = b0 :: b1 :: b2 :: b3 :: rest)
    (he : noErrorFlag s.regs.dsta) :
    ∃ y u, run 3 s = .next (loopHead y u) ∧ SameButTransfer s u ∧ SameRun x y ∧ y.off = x.off + 4 ∧
      y.rem = x.rem - 4 ∧ u.fifo = rest ∧ u.buffer = bufWrite32 s.buffer x.off (wordOfBytes b0 b1 b2 b3) := by
  obtain ⟨a, b, u, h1, _, h2, h3, h4, hrun⟩ := statusReads hc hs ha hp hl
  have hcfg : u.config = s.config := by rw [h4]; rfl
  have hcount : ¬ countOf s.config.layout.fsta b < 4 := by rw [h2, hf]; simp
  have hno : ¬ (errorBits s.config.layout.dsta a ≠ 0#32) := by rw [h1.mpr he]; simp
  generalize hx : ({ x with dsta := a, fsta := b, pos := .readFsta } : ExecRun) = x2 at hrun
  have hd2 : x2.data = some d := by rw [← hx]; exact hd
  have ha2 : x2.dsta = a ∧ x2.fsta = b := by rw [← hx]; exact ⟨rfl, rfl⟩
  unfold afterStatus at hrun
  rw [ha2.1, ha2.2, hcfg, if_neg hno] at hrun
  simp only [hd2, hdir] at hrun
  rw [if_neg hcount] at hrun
  have hu : u.agenda = [] ∧ u.fifo = s.fifo ∧ u.buffer = s.buffer := by rw [h4]; exact ⟨ha, rfl, rfl⟩
  have hpop := fifoPop_cons (s := u.continueAt x2 .moveWord) (by exact hu.2.1.trans hf)
  have hstep := step_execute_access (s := u.continueAt x2 .moveWord) (i := .rdDat)
    (x := { x2 with pos := .moveWord }) rfl (by exact hu.1)
    (by
      have ho2 : x2.off = x.off := by rw [← hx]
      simp only [executeTodo, moveTodo, hd2, hdir, ho2]
      rw [if_pos hoff])
    hpop rfl
  simp only [afterExecuteAccess, afterMove, hd2, hdir] at hstep
  refine ⟨_, _, (run_add 2 1 hrun).trans (run_one hstep), ?_, ?_, ?_, ?_, rfl, ?_⟩
  · subst h4; constructor <;> simp
  · subst hx; exact ⟨rfl, hd.symm, rfl, rfl⟩
  · subst hx; rfl
  · subst hx; rfl
  · show bufWrite32 u.buffer x2.off _ = _
    rw [hu.2.2, ← hx]
    rfl

/-- An iteration of the write path with TFHALF set: three steps push a word of the buffer. -/
theorem iteration_write {s : State} {x : ExecRun} {d : Descriptor}
    (hc : Admissible s.config) (hs : s.session = .execute x) (ha : s.agenda = []) (hp : x.pos = .readDsta)
    (hd : x.data = some d) (hdir : d.direction = .tx) (hoff : x.off + 4 ≤ d.bufferLength)
    (hl : s.fifo.length ≤ s.config.txReadyLevel) (he : noErrorFlag s.regs.dsta) :
    ∃ y u, run 3 s = .next (loopHead y u) ∧ SameButTransfer s u ∧ SameRun x y ∧ y.off = x.off + 4 ∧
      y.rem = x.rem - 4 ∧ u.fifo = s.fifo ++ bytesOf (bufRead32 s.buffer x.off) ∧ u.buffer = s.buffer := by
  have hl' : s.fifo.length ≤ s.config.fifoDepth := Nat.le_trans hl (by have := hc.ready; omega)
  obtain ⟨a, b, u, h1, _, h2, h3, h4, hrun⟩ := statusReads hc hs ha hp hl'
  have hhalf : bitAt b s.config.layout.fsta.tfhalf = true := by rw [h3]; simpa [tfhalf] using hl
  have hcfg : u.config = s.config := by rw [h4]; rfl
  have hno : ¬ (errorBits s.config.layout.dsta a ≠ 0#32) := by rw [h1.mpr he]; simp
  generalize hx : ({ x with dsta := a, fsta := b, pos := .readFsta } : ExecRun) = x2 at hrun
  have hd2 : x2.data = some d := by rw [← hx]; exact hd
  have ha2 : x2.dsta = a ∧ x2.fsta = b := by rw [← hx]; exact ⟨rfl, rfl⟩
  unfold afterStatus at hrun
  rw [ha2.1, ha2.2, hcfg, if_neg hno] at hrun
  simp only [hd2, hdir] at hrun
  rw [if_pos hhalf] at hrun
  have hu : u.agenda = [] ∧ u.fifo = s.fifo ∧ u.buffer = s.buffer := by rw [h4]; exact ⟨ha, rfl, rfl⟩
  have hpush := fifoPush_room (v := bufRead32 s.buffer x.off) (s := u.continueAt x2 .moveWord)
    (by
      show u.fifo.length + 4 ≤ u.config.fifoDepth
      rw [hu.2.1, hcfg]
      have := hc.ready
      omega)
  have ho2 : x2.off = x.off := by rw [← hx]
  have hstep := step_execute_access (s := u.continueAt x2 .moveWord)
    (i := .wrDat (bufRead32 s.buffer x.off)) (x := { x2 with pos := .moveWord }) rfl (by exact hu.1)
    (by
      have hb : (u.continueAt x2 .moveWord).buffer = s.buffer := hu.2.2
      simp only [executeTodo, moveTodo, hd2, hdir, ho2, hb]
      rw [if_pos hoff])
    hpush rfl
  simp only [afterExecuteAccess, afterMove, hd2, hdir] at hstep
  refine ⟨_, _, (run_add 2 1 hrun).trans (run_one hstep), ?_, ?_, ?_, ?_, ?_, hu.2.2⟩
  · subst h4; constructor <;> simp
  · subst hx; exact ⟨rfl, hd.symm, rfl, rfl⟩
  · subst hx; rfl
  · subst hx; rfl
  · show u.fifo ++ _ = _
    rw [hu.2.1]

/-- An iteration that moves nothing, because the flag of its direction is not set: two steps. -/
theorem iteration_nothing {s : State} {x : ExecRun} {d : Descriptor}
    (hc : Admissible s.config) (hs : s.session = .execute x) (ha : s.agenda = []) (hp : x.pos = .readDsta)
    (hd : x.data = some d) (hl : s.fifo.length ≤ s.config.fifoDepth) (he : noErrorFlag s.regs.dsta)
    (hrx : d.direction = .rx → s.fifo.length < 4) (htx : d.direction = .tx → s.config.txReadyLevel < s.fifo.length) :
    ∃ y u, run 2 s = .next (loopHead y u) ∧ SameButTransfer s u ∧ SameRun x y ∧ y.off = x.off ∧
      y.rem = x.rem ∧ u.fifo = s.fifo ∧ u.buffer = s.buffer := by
  obtain ⟨a, b, u, h1, _, h2, h3, h4, hrun⟩ := statusReads hc hs ha hp hl
  have hcfg : u.config = s.config := by rw [h4]; rfl
  have hno : ¬ (errorBits s.config.layout.dsta a ≠ 0#32) := by rw [h1.mpr he]; simp
  unfold afterStatus at hrun
  simp only at hrun
  rw [hcfg, if_neg hno] at hrun
  cases hdir : d.direction with
  | rx =>
    simp only [hd, hdir] at hrun
    rw [if_pos (by rw [h2]; exact hrx hdir)] at hrun
    refine ⟨_, _, hrun, ?_, ⟨rfl, hd.symm, rfl, rfl⟩, rfl, rfl, ?_, ?_⟩ <;> subst h4
    · constructor <;> simp
    · rfl
    · rfl
  | tx =>
    have hhalf : ¬ bitAt b s.config.layout.fsta.tfhalf = true := by
      rw [h3]; simp only [tfhalf, decide_eq_true_eq]; exact Nat.not_le_of_lt (htx hdir)
    simp only [hd, hdir] at hrun
    rw [if_neg hhalf] at hrun
    refine ⟨_, _, hrun, ?_, ⟨rfl, hd.symm, rfl, rfl⟩, rfl, rfl, ?_, ?_⟩ <;> subst h4
    · constructor <;> simp
    · rfl
    · rfl

end Sys2Proof.Machine
end

