-- ==== Sys2Proof/Tests/Slice0.lean ====
section
/-! SUPPORT. Tests of the model, and for every statement with hypotheses a state and operands that meet them. Expected values
are those of the tables of spec/30_encoding.md and of spec/95_test_vectors.md (A1 to G4, S1 to S8), or written out from
the rule named. -/

namespace Sys2Proof.Tests

open Sys2Proof Sys2Proof.Machine

/-! ## Helpers -/

/-- The default configuration. -/
abbrev ref : Config := Config.reference

/-- What `f` shows of the next state of an outcome. -/
def seen {α : Type} (f : State → α) : Result → Option α
  | .next t => some (f t)
  | _ => none

/-- Whether an outcome is this refusal. -/
def refuses (why : Refusal) : Result → Bool
  | .refused r => decide (r = why)
  | _ => false

/-- A small state: the power-on state with a ControllerState, so that every session operation may start. -/
def ready : State := State.reset.setCtrl (some ⟨⟨0⟩, none, 0, 0, 0⟩)

/-- The latched flags all set. -/
def cstaAll : CstaFlags := ⟨true, true, true⟩
def dstaAll : DstaFlags := ⟨true, true, true, true, true⟩

/-- A small state with these flags of CSTA, of DSTA, and these engines. -/
def withCsta (f : CstaFlags) (ce : CmdEngine) : State :=
  (ready.setRegs { ready.regs with csta := f }).setCe ce
def withDsta (f : DstaFlags) (de : DataEngine) : State :=
  (ready.setRegs { ready.regs with dsta := f }).setDe de
/-- A small state with a block size. -/
def sized (n : Word) : State := ready.setRegs { ready.regs with bsize := n }
/-- A small state with `n` bytes in the FIFO. -/
def withFifo (n : Nat) : State := ready.setFifo (List.replicate n 0x11#8)

/-- The named bits of the word a read with a draw returns, whatever is drawn (R21). -/
theorem named_bits_read (m a d : Word) {k : Word} (h : a &&& m = k) : mergeDraw m a d &&& m = k := by
  rw [mergeDraw_and_mask, h]

/-! ## WellFormed: the terms each check refuses -/

theorem test_wf_rx_bytes_empty : Instr.wf (.evRxBytes []) = false := by decide
theorem test_wf_rx_bytes_one : Instr.wf (.evRxBytes [0#8]) = true := by decide
theorem test_wf_tx_bytes_zero : Instr.wf (.evTxBytes 0) = false := by decide
theorem test_wf_tx_bytes_one : Instr.wf (.evTxBytes 1) = true := by decide
theorem test_ill_formed_event_is_refused :
    refuses .illFormed (step (ready.pushOperation (.ev 5#4 (.count 0)))) = true := by decide

/-! ## Decoding: words written out from R20, R110 to R114, R119, R126 -/

theorem test_decode_reads :
    decode ref (.access .read 32 0x00 0#32) = .ok .rdCon ∧ decode ref (.access .read 32 0x04 0#32) = .ok .rdPre ∧
    decode ref (.access .read 32 0x08 0#32) = .ok .rdCarg ∧ decode ref (.access .read 32 0x0C 0#32) = .ok .rdCcon ∧
    decode ref (.access .read 32 0x10 0#32) = .ok .rdCsta ∧ decode ref (.access .read 32 0x14 0#32) = .ok .rdRsp0 ∧
    decode ref (.access .read 32 0x18 0#32) = .ok .rdRsp1 ∧ decode ref (.access .read 32 0x1C 0#32) = .ok .rdRsp2 ∧
    decode ref (.access .read 32 0x20 0#32) = .ok .rdRsp3 ∧ decode ref (.access .read 32 0x24 0#32) = .ok .rdDtimer ∧
    decode ref (.access .read 32 0x28 0#32) = .ok .rdBsize ∧ decode ref (.access .read 32 0x2C 0#32) = .ok .rdDcon ∧
    decode ref (.access .read 32 0x30 0#32) = .ok .rdDcnt ∧ decode ref (.access .read 32 0x34 0#32) = .ok .rdDsta ∧
    decode ref (.access .read 32 0x38 0#32) = .ok .rdFsta ∧ decode ref (.access .read 32 0x3C 0#32) = .ok .rdImsk ∧
    decode ref (.access .read 32 0x40 0#32) = .ok .rdDat := by decide

theorem test_decode_writes :
    decode ref (.access .write 32 0x00 1#32) = .ok (.wrCon 1#32) ∧ decode ref (.access .write 32 0x04 1#32) = .ok (.wrPre 1#32) ∧
    decode ref (.access .write 32 0x08 1#32) = .ok (.wrCarg 1#32) ∧
    decode ref (.access .write 32 0x0C 1#32) = .ok (.wrCcon 1#32) ∧
    decode ref (.access .write 32 0x10 1#32) = .ok (.wrCsta 1#32) ∧
    decode ref (.access .write 32 0x14 1#32) = .ok (.wrRsp0 1#32) ∧
    decode ref (.access .write 32 0x18 1#32) = .ok (.wrRsp1 1#32) ∧
    decode ref (.access .write 32 0x1C 1#32) = .ok (.wrRsp2 1#32) ∧
    decode ref (.access .write 32 0x20 1#32) = .ok (.wrRsp3 1#32) ∧
    decode ref (.access .write 32 0x24 1#32) = .ok (.wrDtimer 1#32) ∧
    decode ref (.access .write 32 0x28 1#32) = .ok (.wrBsize 1#32) ∧
    decode ref (.access .write 32 0x2C 1#32) = .ok (.wrDcon 1#32) ∧
    decode ref (.access .write 32 0x30 1#32) = .ok (.wrDcnt 1#32) ∧
    decode ref (.access .write 32 0x34 1#32) = .ok (.wrDsta 1#32) ∧
    decode ref (.access .write 32 0x38 1#32) = .ok (.wrFsta 1#32) ∧
    decode ref (.access .write 32 0x3C 1#32) = .ok (.wrImsk 1#32) ∧
    decode ref (.access .write 32 0x40 1#32) = .ok (.wrDat 1#32) := by decide

/-- A17. -/
theorem test_decode_bad_accesses :
    decode ref (.access .write 16 0x0C 0#32) = .error .accessWidth ∧ decode ref (.access .read 32 0x44 0#32) = .error .noRegister ∧
    decode ref (.access .read 32 0x0E 0#32) = .error .misaligned := by decide

/-- R111, bit by bit: SDRESET is bit 8, CLKTYPE bit 5, FIFORESET bit 1. -/
theorem test_decode_con_forms :
    decode ref (.cn 0b000000000000000000000001_00000000#32) = .ok .conReset ∧
    decode ref (.cn 0b000000000000000000000001_00100010#32) = .ok .conReset ∧
    decode ref (.cn 0b000000000000000000000000_00100000#32) = .ok (.conCfg true false) ∧
    decode ref (.cn 0b000000000000000000000000_00000010#32) = .ok (.conCfg false true) := by decide

/-- R112, bit by bit: INDEX [5:0], SENDERHOST 6, CMDSTART 8, WAITRSP 9, LONGRSP 10. -/
theorem test_decode_ccon_forms :
    decode ref (.cc 0b000000000000000000000001_01111111#32) = .ok (.cmdNorsp 63#6) ∧
    decode ref (.cc 0b000000000000000000000011_01010001#32) = .ok (.cmdShort 17#6) ∧
    decode ref (.cc 0b000000000000000000000111_01000010#32) = .ok (.cmdLong 2#6) ∧
    decode ref (.cc 0b000000000000000000000110_00000001#32) = .ok (.cconStore 1#6 false true true) := by decide

/-- The reserved words of R130 that section 2.2 of the vectors lists. -/
theorem test_decode_reserved_ccon :
    decode ref (.cc 0x00000540#32) = .error .reservedCommandWord ∧ decode ref (.cc 0x00000300#32) = .error .reservedCommandWord ∧
    decode ref (.cc 0x000003C0#32) = .error .reservedCommandWord ∧ decode ref (.cc 0x00000B40#32) = .error .reservedCommandWord := by
  decide

/-- R114, bit by bit: BLKNUM [10:0], DATMODE [13:12], DATSTART 14, WIDEBUS 16, BLOCKMODE 17, RACMD 19, TARSP 20,
DATASIZE [23:22]. -/
theorem test_decode_dcon_forms :
    decode ref (.dc 0b00000000_10001011_01100000_00001000#32) = .ok (.dataRx 8#11 true) ∧
    decode ref (.dc 0b00000000_10010010_01110111_11111111#32) = .ok (.dataTx 2047#11 false) ∧
    decode ref (.dc 0x00000000#32) = .ok .dataOff := by decide

/-- The reserved words of R131 that section 2.2 of the vectors lists. -/
theorem test_decode_reserved_dcon :
    decode ref (.dc 0x008A2001#32) = .error .reservedDataWord ∧ decode ref (.dc 0x008A7001#32) = .error .reservedDataWord ∧
    decode ref (.dc 0x009A7001#32) = .error .reservedDataWord ∧ decode ref (.dc 0x00127001#32) = .error .reservedDataWord ∧
    decode ref (.dc 0x00907001#32) = .error .reservedDataWord ∧ decode ref (.dc 0x008A6801#32) = .error .reservedDataWord := by
  decide

def cmd8 : Command := ⟨8#6, 0x1AA#32, .short⟩
def rd16 : Descriptor := ⟨.rx, 16, 1, 4, 16⟩
def wr8 : Descriptor := ⟨.tx, 8, 1, 1, 8⟩
def board : Binding := ⟨some 0x4000, 7, 1, 2⟩

/-- R119. -/
theorem test_decode_session_operations :
    decode ref (.req 0#4 (.request cmd8 none)) = .ok (.execute cmd8 none) ∧
    decode ref (.req 1#4 (.request cmd8 (some rd16))) = .ok (.issue cmd8 (some rd16)) ∧
    decode ref (.req 2#4 (.kind .long)) = .ok (.readResponse .long) ∧
    decode ref (.req 3#4 (.descriptor wr8)) = .ok (.transfer wr8) ∧ decode ref (.req 4#4 .none) = .ok .waitCompletion ∧
    decode ref (.req 5#4 (.binding board)) = .ok (.probe board) ∧ decode ref (.req 6#4 (.target 400000)) = .ok (.setClock 400000) ∧
    decode ref (.req 7#4 .none) = .ok .cardPresent ∧ decode ref (.req 8#4 .none) = .ok .writeProtected ∧
    decode ref (.req 9#4 .none) = .error .noSelector ∧ decode ref (.req 7#4 (.count 1)) = .error .wrongOperand := by decide

/-- R126. -/
theorem test_decode_events :
    decode ref (.ev 0#4 .none) = .ok .evCmdSent ∧ decode ref (.ev 1#4 (.word 5#32)) = .ok (.evRspShort 5#32) ∧
    decode ref (.ev 2#4 (.words 1#32 2#32 3#32 4#32)) = .ok (.evRspLong 1#32 2#32 3#32 4#32) ∧
    decode ref (.ev 3#4 .none) = .ok .evRspTimeout ∧ decode ref (.ev 4#4 (.bytes [1#8])) = .ok (.evRxBytes [1#8]) ∧
    decode ref (.ev 5#4 (.count 3)) = .ok (.evTxBytes 3) ∧ decode ref (.ev 6#4 .none) = .ok .evDataFinish ∧
    decode ref (.ev 7#4 (.stops true)) = .ok (.evCrcFail true) ∧ decode ref (.ev 8#4 (.stops true)) = .ok (.evRxcrcFail true) ∧
    decode ref (.ev 9#4 (.stops true)) = .ok (.evDataTimeout true) ∧ decode ref (.ev 10#4 (.stops true)) = .ok (.evFifoFail true) ∧
    decode ref (.ev 11#4 .none) = .error .noEvent := by decide

/-- Words of the opcode table, as the host gives them: a key of 8 bits, a key with a data word above it, and words of
formats CN, CC and DC. -/
theorem test_table_words :
    decodeTableWord 8 0x04 = some .rdPre ∧ decodeTableWord 8 0x90 = some (.wrCsta 0#32) ∧
    decodeTableWord 16 0x100 = some .conReset ∧ decodeTableWord 16 0x340 = some (.cmdShort 0#6) ∧
    decodeTableWord 32 0x008A6000 = some (.dataRx 0#11 false) ∧ decodeTableWord 32 0 = some .dataOff ∧
    decodeTableWord 8 0x5 = some (.probe ⟨some 0, 0, 0, 0⟩) ∧ decodeTableWord 8 0xA = some (.evFifoFail false) := by decide

/-- A word placed runs as the next step. -/
theorem test_placed_word_runs :
    seen (fun t => t.regs.ccon) (step (State.reset.withFetchWord 16 0x351)) = some ⟨17#6, true, true, false⟩ ∧
    seen (fun t => t.regs.clktype) (step (State.reset.withFetchWord 16 0x20)) = some true := by decide

/-- R118 for the default layout, and the masks the spec writes out for it: the flag groups 0xF00 and 0x1F0, the error mask
0x1E0, the stored fields of CCON and DCON, the named bits of CON and FSTA, and the mask and the two forms of R114. -/
theorem test_reference_layout_is_admissible : Admissible Config.reference := admissible_reference
theorem test_reference_masks :
    maskOf ref.layout.con.fields = 0x122#32 ∧ maskOf ref.layout.ccon.stored = 0x67F#32 ∧
    maskOf ref.layout.csta.fields = 0xF00#32 ∧ maskOf ref.layout.dcon.stored = 0x00DB37FF#32 ∧
    maskOf ref.layout.dsta.fields = 0x1F0#32 ∧ maskOf ref.layout.dsta.errors = 0x1E0#32 ∧
    maskOf ref.layout.fsta.fields = 0x87F#32 ∧ dconFormMask ref.layout.dcon = 0xFFFEF800#32 ∧
    dataFormWord ref.layout.dcon .rx 0#11 false = 0x008A6000#32 ∧
    dataFormWord ref.layout.dcon .tx 0#11 false = 0x00927000#32 := by decide

/-! ## Another configuration (R17): positions, offsets, reset values and bounds are not facts about a chip -/

/-- CLKTYPE at bit 7, SDRESET at bit 0, DIV four bits wide from bit 4, offsets of stride 8, a reset value, bounds. -/
def otherConfig : Config :=
  { Config.reference with
    offsets := ⟨0, 8, 16, 24, 32, 40, 48, 56, 64, 72, 80, 88, 96, 104, 112, 120, 128⟩
    layout :=
      { con := ⟨0, 7, 3⟩
        pre := ⟨4, 4⟩
        dcon := { datmode := ⟨12, 1⟩, datmodeHigh := ⟨15, 1⟩, rxStart := 1#32, txStart := 2#32 } }
    reset := { carg := 0x55#32, imsk := 0x8#32 }
    donePollBound := 7
    dataLoopBound := some 2
    clearDconOnFailure := true }

theorem admissible_other : Admissible otherConfig where
  offsetsRise := by decide
  offsetsAligned := by decide
  con := ⟨by decide, by decide⟩
  pre := ⟨by decide, by decide⟩
  ccon := ⟨by decide, by decide⟩
  csta := ⟨by decide, by decide⟩
  dtimer := ⟨by decide, by decide⟩
  bsize := ⟨by decide, by decide⟩
  dcon := ⟨by decide, by decide⟩
  dsta := ⟨by decide, by decide⟩
  fsta := ⟨by decide, by decide⟩
  dataValues := by decide
  count := by decide
  ready := by decide
  resetValues := by decide

/-- DATA_LOOP_BOUND set, and CLEAR_DCON_ON_FAILURE set, all else as by default. -/
def bounded (n : Nat) : Config := { Config.reference with dataLoopBound := some n }
def clearing : Config := { Config.reference with clearDconOnFailure := true }
theorem admissible_bounded (n : Nat) : Admissible (bounded n) := admissible_reference.of_same rfl rfl rfl rfl rfl
theorem admissible_clearing : Admissible clearing := admissible_reference.of_same rfl rfl rfl rfl rfl

theorem test_other_configuration_decodes :
    decode otherConfig (.access .write 32 0x08 0xFF#32) = .ok (.wrPre 0xFF#32) ∧
    decode otherConfig (.access .read 32 0x04 0#32) = .error .noRegister ∧
    decode otherConfig (.cn 0x80#32) = .ok (.conCfg true false) ∧ decode otherConfig (.cn 0x01#32) = .ok .conReset := by decide

/-- The fields stand where LAYOUT puts them, and software reset leaves the configured values. -/
theorem test_other_configuration_runs :
    seen (fun t => t.regs.clktype) (exec (.wrCon 0x80#32) { ready with config := otherConfig }) = some true ∧
    seen (fun t => t.regs.clktype) (exec (.wrCon 0x20#32) { ready with config := otherConfig }) = some false ∧
    seen (fun t => t.regs.div) (exec (.wrPre 0x1AF#32) { ready with config := otherConfig }) = some 0xA#32 ∧
    seen (fun t => (t.regs.carg, t.regs.imsk)) (exec (.wrCon 0x01#32) { ready with config := otherConfig }) =
      some (0x55#32, 0x8#32) := by decide

/-- RX-start and TX-start as two separate bits, 12 and 15 (R30, D2): the arming words, and the word with both. -/
theorem test_separate_start_bits :
    decode otherConfig (.dc 0x008A5001#32) = .ok (.dataRx 1#11 false) ∧
    decode otherConfig (.dc 0x0092C001#32) = .ok (.dataTx 1#11 false) ∧
    decode otherConfig (.dc 0x008AD001#32) = .error .reservedDataWord ∧
    encode otherConfig (.dataTx 1#11 false) = .dc 0x0092C001#32 := by decide

/-! ## Register accesses (vectors A1 to A18) -/

theorem test_A1_wrCsta : seen (fun t => t.regs.csta) (exec (.wrCsta 0x200#32) (withCsta ⟨true, false, true⟩ .idle)) =
    some ⟨false, false, true⟩ := by decide
theorem test_A2_wrCsta_zero : exec (.wrCsta 0#32) (withCsta ⟨true, false, true⟩ .idle) =
    .next (withCsta ⟨true, false, true⟩ .idle) := by rfl
theorem test_A3_rdCsta_live_bit :
    seen (fun t => t.hostWord &&& 0xF00#32) (exec .rdCsta (withCsta ⟨false, false, true⟩ (.waitRsp false))) =
      some 0x900#32 := congrArg some (named_bits_read _ _ _ (by decide))
theorem test_A4_wrDsta : seen (fun t => t.regs.dsta) (exec (.wrDsta 0x80#32) (withDsta ⟨true, false, false, true, false⟩ .idle)) =
    some ⟨true, false, false, false, false⟩ := by decide
theorem test_A4_rdDsta :
    seen (fun t => t.hostWord &&& 0x1F0#32) (exec .rdDsta (withDsta ⟨true, false, false, true, false⟩ .idle)) =
      some 0x090#32 := congrArg some (named_bits_read _ _ _ (by decide))
theorem test_A5_wrDsta_all : seen (fun t => (t.regs.dsta, t.de)) (exec (.wrDsta 0x1F0#32) (withDsta dstaAll .done)) =
    some (⟨false, false, false, false, false⟩, .done) := by decide
theorem test_A6_wrFsta : seen (fun t => t.fifo.length) (exec (.wrFsta 0xFFFFFFFF#32) (withFifo 12)) = some 12 := by decide
theorem test_A7_wrRsp : ∀ i ∈ ([.wrRsp0 0x12345678#32, .wrRsp1 0x12345678#32, .wrRsp2 0x12345678#32,
      .wrRsp3 0x12345678#32] : List Instr),
    seen (fun t => (t.regs.rsp0, t.regs.rsp1, t.regs.rsp2, t.regs.rsp3))
      (exec i (ready.setRegs { ready.regs with rsp0 := some 0x1AA#32 })) = some (some 0x1AA#32, none, none, none) := by
  decide
/-- A8 (R175): two reads of DCNT are two draws. -/
theorem test_A8_rdDcnt : seen (fun t => (t.hostWord, t.draws)) (exec .rdDcnt ready) =
    some (Config.freeWord 0, 1) := by
  show some (mergeDraw 0#32 0#32 (Config.freeWord 0), 1) = _
  rw [mergeDraw_nothing_named]
theorem test_wrDcnt : exec (.wrDcnt 0xFFFFFFFF#32) ready = .next ready := by rfl
theorem test_A9_wrCarg : seen (fun t => t.regs.carg) (exec (.wrCarg 0xDEADBEEF#32) ready) = some 0xDEADBEEF#32 := by decide
theorem test_A9_rdCarg : seen (fun t => t.hostWord)
    (exec .rdCarg (ready.setRegs { ready.regs with carg := 0xDEADBEEF#32 })) = some 0xDEADBEEF#32 := by decide
theorem test_A10_wrPre : seen (fun t => t.regs.div) (exec (.wrPre 0x17C#32) ready) = some 0x7C#32 := by decide
theorem test_A10_rdPre : seen (fun t => t.hostWord &&& 0xFF#32)
    (exec .rdPre (ready.setRegs { ready.regs with div := 0x7C#32 })) = some 0x7C#32 :=
  congrArg some (named_bits_read _ _ _ (by decide))
theorem test_A11_wrBsize : seen (fun t => t.regs.bsize) (exec (.wrBsize 0x1200#32) ready) = some 0x200#32 := by decide
theorem test_A11_rdBsize : seen (fun t => t.hostWord &&& 0xFFF#32)
    (exec .rdBsize (ready.setRegs { ready.regs with bsize := 0x200#32 })) = some 0x200#32 :=
  congrArg some (named_bits_read _ _ _ (by decide))
theorem test_A12_wrDtimer : seen (fun t => t.regs.dtimer) (exec (.wrDtimer 0xFFFFFFFF#32) ready) = some 0x7FFFFF#32 := by
  decide
theorem test_A12_rdDtimer : seen (fun t => t.hostWord &&& 0x7FFFFF#32)
    (exec .rdDtimer (ready.setRegs { ready.regs with dtimer := 0x7FFFFF#32 })) = some 0x7FFFFF#32 :=
  congrArg some (named_bits_read _ _ _ (by decide))
theorem test_A13_wrImsk : refuses .interruptMask (exec (.wrImsk 1#32) ready) = true := by decide
theorem test_rdImsk : seen (fun t => t.hostWord) (exec .rdImsk ready) = some 0#32 := by decide
theorem test_A14_wrCon : seen (fun t => (t.regs.clktype, t.fifo)) (exec (.wrCon 0x22#32) (withFifo 8)) =
    some (true, []) := by decide
theorem test_A14_rdCon : seen (fun t => t.hostWord &&& 0x122#32)
    (exec .rdCon (ready.setRegs { ready.regs with clktype := true })) = some 0x20#32 :=
  congrArg some (named_bits_read _ _ _ (by decide))
theorem test_A15_conCfg : seen (fun t => (t.regs.clktype, t.fifo.length)) (exec (.conCfg true false) (withFifo 8)) =
    some (true, 8) := by decide
/-- The start of A16. -/
def busy : State :=
  (((ready.setRegs { ready.regs with
    clktype := true, div := 124#32, carg := 5#32, csta := cstaAll, dsta := dstaAll, rsp0 := some 1#32 }).setFifo
      (List.replicate 20 0x11#8)).setCe (.waitRsp false)).setDe (.active .rx 100)
theorem test_A16_wrCon_reset : seen (fun t => (t.regs, t.fifo, t.ce, t.de)) (exec (.wrCon 0x122#32) busy) =
    some (Regs.afterReset {}, [], .idle, .idle) := by decide
theorem test_A16_conReset : seen (fun t => (t.regs, t.fifo, t.ce, t.de)) (exec .conReset busy) =
    some (Regs.afterReset {}, [], .idle, .idle) := by decide
theorem test_A18_wrCcon : seen (fun t => (t.regs.ccon, t.ce)) (exec (.wrCcon 0x51#32) ready) =
    some (⟨17#6, true, false, false⟩, .idle) := by decide
theorem test_A18_cconStore : seen (fun t => (t.regs.ccon, t.ce)) (exec (.cconStore 17#6 true false false)
    (ready.setCe (.waitRsp true))) = some (⟨17#6, true, false, false⟩, .waitRsp true) := by decide
/-- R158: index 17, short (0x351) reads as 0x251 under the stored fields' mask 0x67F. -/
theorem test_rdCcon : seen (fun t => t.hostWord &&& 0x67F#32)
    (exec .rdCcon (ready.setRegs { ready.regs with ccon := ⟨17#6, true, true, false⟩ })) = some 0x251#32 :=
  congrArg some (named_bits_read _ _ _ (by decide))
/-- R162 to R165. -/
theorem test_rdRsp : ([.rdRsp0, .rdRsp1, .rdRsp2, .rdRsp3] : List Instr).map (fun i => seen (fun t => (t.hostWord, t.draws))
      (exec i (ready.setRegs { ready.regs with
        rsp0 := some 0x11111111#32, rsp1 := some 0x22222222#32, rsp2 := some 0x33333333#32, rsp3 := some 0x44444444#32 }))) =
    [some (0x11111111#32, 0), some (0x22222222#32, 0), some (0x33333333#32, 0), some (0x44444444#32, 0)] := by decide

/-! ## Control words the sequencer assembles (section 2.2 of the vectors) -/

theorem test_command_words :
    commandWord ref.layout.ccon ⟨0#6, 0#32, .none⟩ = 0x140#32 ∧ commandWord ref.layout.ccon ⟨63#6, 0#32, .none⟩ = 0x17F#32 ∧
    commandWord ref.layout.ccon ⟨8#6, 0#32, .short⟩ = 0x348#32 ∧ commandWord ref.layout.ccon ⟨55#6, 0#32, .short⟩ = 0x377#32 ∧
    commandWord ref.layout.ccon ⟨2#6, 0#32, .long⟩ = 0x742#32 ∧ commandWord ref.layout.ccon ⟨63#6, 0#32, .long⟩ = 0x77F#32 := by decide
theorem test_data_words :
    dataControlWord ref.layout.dcon ⟨.rx, 512, 1, 1, 0⟩ = 0x008A6001#32 ∧ dataControlWord ref.layout.dcon ⟨.rx, 512, 2047, 4, 0⟩ = 0x008B67FF#32 ∧
    dataControlWord ref.layout.dcon ⟨.tx, 512, 1, 1, 0⟩ = 0x00927001#32 ∧ dataControlWord ref.layout.dcon ⟨.tx, 512, 2, 4, 0⟩ = 0x00937002#32 ∧
    dataControlWord ref.layout.dcon ⟨.tx, 512, 2047, 1, 0⟩ = 0x009277FF#32 := by decide

/-! ## The command engine (B1 to B10) -/

theorem test_B1_wrCcon : seen (fun t => t.ce) (exec (.wrCcon 0x140#32) ready) = some (.sending 0#6 0#32 false false) := by
  decide
theorem test_B1_cmdNorsp : seen (fun t => t.ce) (exec (.cmdNorsp 0#6) ready) = some (.sending 0#6 0#32 false false) := by
  decide
theorem test_B3_cmdShort : seen (fun t => (t.ce, t.regs.ccon)) (exec (.cmdShort 8#6)
    (ready.setRegs { ready.regs with carg := 0x1AA#32 })) =
      some (.sending 8#6 0x1AA#32 true false, ⟨8#6, true, true, false⟩) := by decide
theorem test_P2_cmdLong : seen (fun t => (t.ce, t.regs.ccon)) (exec (.cmdLong 2#6) ready) =
    some (.sending 2#6 0#32 true true, ⟨2#6, true, true, true⟩) := by decide
theorem test_B7_armed_twice : refuses .commandInFlight (exec (.wrCcon 0x140#32)
    (ready.setCe (.sending 0#6 0#32 false false))) = true := by decide
theorem test_B2_evCmdSent : seen (fun t => (t.ce, t.regs.csta, t.card)) (exec .evCmdSent
    (ready.setCe (.sending 0#6 0#32 false false))) = some (.idle, ⟨false, false, true⟩, [.cmdFrame 0#6 0#32]) := by decide
theorem test_B9_evCmdSent_starts_rx : seen (fun t => (t.ce, t.de)) (exec .evCmdSent
    ((ready.setCe (.sending 17#6 0#32 true false)).setDe (.armed .rx 512))) =
      some (.waitRsp false, .active .rx 512) := by decide
theorem test_B4_evRspShort : seen (fun t => (t.regs.rsp0, t.regs.rsp1, t.regs.csta.rspfin, t.ce)) (exec (.evRspShort 0x1AA#32)
    ((ready.setRegs { ready.regs with rsp1 := some 7#32 }).setCe (.waitRsp false))) =
      some (some 0x1AA#32, none, true, .idle) := by decide
theorem test_B6_evRspShort_long_awaited : refuses .eventNotEnabled (exec (.evRspShort 0#32)
    (ready.setCe (.waitRsp true))) = true := by decide
theorem test_P2_evRspLong : seen (fun t => (t.regs.rsp0, t.regs.rsp3, t.card)) (exec
    (.evRspLong 0x11111111#32 0x22222222#32 0x33333333#32 0x44444444#32) (ready.setCe (.waitRsp true))) =
      some (some 0x11111111#32, some 0x44444444#32,
        [.rspFrame [0x11111111#32, 0x22222222#32, 0x33333333#32, 0x44444444#32]]) := by decide
theorem test_P4_evRspShort_starts_tx : seen (fun t => t.de) (exec (.evRspShort 0x900#32)
    ((ready.setCe (.waitRsp false)).setDe (.armed .tx 8))) = some (.active .tx 8) := by decide
theorem test_B5_evRspTimeout : seen (fun t => (t.regs.csta, t.ce)) (exec .evRspTimeout
    (withCsta ⟨false, false, true⟩ (.waitRsp false))) = some (⟨false, true, true⟩, .idle) := by decide
theorem test_B10_evRspTimeout_keeps_tx : seen (fun t => t.de) (exec .evRspTimeout
    ((ready.setCe (.waitRsp false)).setDe (.armed .tx 512))) = some (.armed .tx 512) := by decide
theorem test_B8_nothing_enabled_when_idle : ∀ i ∈ ([.evCmdSent, .evRspShort 0#32, .evRspLong 0#32 0#32 0#32 0#32,
    .evRspTimeout] : List Instr), refuses .eventNotEnabled (exec i ready) = true := by decide

/-! ## The data engine and the FIFO (C1 to C19) -/

theorem test_C1_wrDat : seen (fun t => t.fifo) (exec (.wrDat 0x44332211#32) ready) =
    some [0x11#8, 0x22#8, 0x33#8, 0x44#8] := by decide
theorem test_C2_rdDat : seen (fun t => (t.hostWord, t.fifo)) (exec .rdDat
    (ready.setFifo [0x11#8, 0x22#8, 0x33#8, 0x44#8, 0x55#8])) = some (0x44332211#32, [0x55#8]) := by decide
theorem test_C3_rdDat_short : refuses .fifoUnderflow (exec .rdDat (withFifo 3)) = true := by decide
theorem test_C4_wrDat_full : refuses .fifoOverflow (exec (.wrDat 0#32) (withFifo 61)) = true := by decide
theorem test_C6_rdFsta : seen (fun t => t.hostWord &&& 0x87F#32) (exec .rdFsta (withFifo 32)) = some 0x820#32 :=
  congrArg some (named_bits_read _ _ _ (by decide))
theorem test_C6_fsta_words : ([0, 3, 4, 32, 33, 36, 64] : List Nat).map (fun n => fstaWord ref (List.replicate n 0#8)) =
    [0x800#32, 0x803#32, 0x804#32, 0x820#32, 0x021#32, 0x024#32, 0x040#32] := by decide
theorem test_C7_wrDcon : seen (fun t => t.de) (exec (.wrDcon 0x008B6001#32)
    (ready.setRegs { ready.regs with bsize := 512#32 })) = some (.armed .rx 512) := by decide
theorem test_C7_rdDcon : seen (fun t => t.hostWord &&& 0x00DB37FF#32) (exec .rdDcon
    (ready.setRegs { ready.regs with dcon := ⟨1#11, 2#32, true, true, true, false, 2#32⟩ })) = some 0x008B2001#32 :=
  congrArg some (named_bits_read _ _ _ (by decide))
theorem test_C7_dataRx : seen (fun t => (t.de, t.regs.dcon)) (exec (.dataRx 1#11 true)
    (ready.setRegs { ready.regs with bsize := 512#32 })) =
      some (.armed .rx 512, ⟨1#11, 2#32, true, true, true, false, 2#32⟩) := by decide
theorem test_C8_dataTx : seen (fun t => (t.de, t.regs.dcon)) (exec (.dataTx 2#11 true)
    (ready.setRegs { ready.regs with bsize := 512#32 })) =
      some (.armed .tx 1024, ⟨2#11, 3#32, true, true, false, true, 2#32⟩) := by decide
theorem test_C9_no_block_size : refuses .dataArmRefused (exec (.wrDcon 0x008B6001#32) ready) = true := by decide
theorem test_C10_dataOff : seen (fun t => (t.de, t.regs.dcon, t.regs.dsta, t.fifo.length)) (exec .dataOff
    (((withFifo 5).setRegs { ready.regs with dcon := ⟨1#11, 2#32, true, true, true, false, 2#32⟩, dsta := dstaAll }).setDe .err)) =
      some (.idle, DconFields.zero, dstaAll, 5) := by decide
theorem test_C11_evRxBytes : seen (fun t => (t.fifo.length, t.de)) (exec (.evRxBytes [1#8, 2#8, 3#8, 4#8])
    ((withFifo 60).setDe (.active .rx 10))) = some (64, .active .rx 6) := by decide
theorem test_C11_evRxBytes_no_room : refuses .eventNotEnabled (exec (.evRxBytes [1#8, 2#8, 3#8, 4#8, 5#8])
    ((withFifo 60).setDe (.active .rx 10))) = true := by decide
theorem test_C12_evTxBytes : seen (fun t => (t.card, t.fifo, t.de)) (exec (.evTxBytes 3)
    ((ready.setFifo [0xDE#8, 0xAD#8, 0xBE#8, 0xEF#8]).setDe (.active .tx 8))) =
      some ([.txBytes [0xDE#8, 0xAD#8, 0xBE#8]], [0xEF#8], .active .tx 5) := by decide
theorem test_C13_evTxBytes_empty : refuses .eventNotEnabled (exec (.evTxBytes 1) (ready.setDe (.active .tx 8))) = true := by
  decide
theorem test_C14_evDataFinish : seen (fun t => (t.regs.dsta.xferfinish, t.de, t.fifo.length)) (exec .evDataFinish
    ((withFifo 12).setDe (.active .rx 0))) = some (true, .done, 12) := by decide
theorem test_C15_evDataFinish_bytes_left : refuses .eventNotEnabled (exec .evDataFinish
    (ready.setDe (.active .rx 4))) = true := by decide
theorem test_C16_evCrcFail : ([false, true] : List Bool).map (fun b => seen (fun t => (t.regs.dsta.crcfail, t.de))
    (exec (.evCrcFail b) (ready.setDe (.active .rx 24)))) = [some (true, .active .rx 24), some (true, .err)] := by decide
theorem test_C17_evDataTimeout : seen (fun t => dstaWord ref.layout.dsta t.regs.dsta) (exec (.evDataTimeout false)
    (withDsta ⟨false, false, false, true, false⟩ (.active .rx 24))) = some 0x0A0#32 := by decide
theorem test_evRxcrcFail : seen (fun t => (dstaWord ref.layout.dsta t.regs.dsta, t.de)) (exec (.evRxcrcFail true)
    (ready.setDe (.active .tx 4))) = some (0x040#32, .err) := by decide
theorem test_evFifoFail : seen (fun t => (dstaWord ref.layout.dsta t.regs.dsta, t.de)) (exec (.evFifoFail false)
    (ready.setDe (.active .tx 4))) = some (0x100#32, .active .tx 4) := by decide
theorem test_C18_no_error_event : ∀ de ∈ ([.idle, .armed .rx 4, .done, .err] : List DataEngine),
    refuses .eventNotEnabled (exec (.evCrcFail true) (ready.setDe de)) = true := by decide
theorem test_C19_fifo_reset_in_use : refuses .fifoInUse (exec (.wrCon 2#32) (ready.setDe (.active .rx 100))) = true := by
  decide

/-! ## Session operations (section 2.5 to 2.9 of the vectors, P1 to P8) -/

/-- A state in which EXECUTE stands at `x`, in phase `pc`. -/
def at_ (x : ExecRun) (pc : Phase) : State := (ready.setSession (.execute x)).setPc pc

/-- EXECUTE of CMD8, no data, at a position. -/
def run8 (pos : ExecPos) : ExecRun := { newRun cmd8 none 0 with pos := pos }
/-- EXECUTE of a command with a descriptor, at a position, `off` bytes moved. -/
def runData (d : Descriptor) (pos : ExecPos) (off : Nat) : ExecRun :=
  { newRun ⟨17#6, 0x1000#32, .short⟩ (some d) (totalBytes d - off) with pos := pos, off := off }

/-- Section 2.8: accepted and refused descriptors. -/
theorem test_execute_accepts : ([⟨.rx, 512, 2047, 4, 1048064⟩, ⟨.rx, 6, 2, 4, 12⟩, ⟨.rx, 4095, 4, 1, 16380⟩] :
    List Descriptor).map (fun d => seen (fun t => t.pc) (exec (.execute cmd8 (some d)) ready)) =
      [some .commandPhase, some .commandPhase, some .commandPhase] := by decide
theorem test_execute_refuses : ∀ d ∈ ([⟨.rx, 6, 1, 4, 6⟩, ⟨.rx, 0, 1, 4, 0⟩, ⟨.rx, 512, 0, 4, 0⟩, ⟨.rx, 4096, 1, 4, 4096⟩,
    ⟨.rx, 512, 1, 8, 512⟩, ⟨.rx, 512, 1, 4, 511⟩] : List Descriptor),
      refuses .contractViolation (exec (.execute cmd8 (some d)) ready) = true := by decide
/-- P7: 2048 blocks. -/
theorem test_P7_execute_too_many_blocks : seen (fun t => (t.pc, t.regs, t.draws)) (exec (.execute ⟨18#6, 0#32, .short⟩
    (some ⟨.rx, 512, 2048, 4, 1048576⟩)) ready) = some (.failed .configurationError, ready.regs, 0) := by decide
/-- R290: the first access of ISSUE is the clear of CSTA with all ones. -/
theorem test_issue : seen (fun t => todo t) (exec (.issue cmd8 none) (at_ (run8 .callIssue) .commandPhase)) =
    some (.access (.wrCsta 0xFFFFFFFF#32)) := by decide
theorem test_issue_not_callable : refuses .subStepNotCallable (exec (.issue cmd8 none) ready) = true := by decide
/-- S1, S6: READ_RESPONSE reads RSP0 alone, or nothing for kind none. -/
theorem test_readResponse : seen (fun t => todo t) (exec (.readResponse .short)
    (at_ (run8 .callReadResponse) .commandPhase)) = some (.access .rdRsp0) := by decide
theorem test_readResponse_none : seen (fun t => (t.pc, todo t)) (exec (.readResponse .none)
    (at_ { newRun ⟨0#6, 0#32, .none⟩ none 0 with pos := .callReadResponse } .commandPhase)) =
      some (.completionPhase, .silent) := by decide
/-- R300: the loop starts with a read of DSTA, all bytes still to move. -/
theorem test_transfer : seen (fun t => todo t) (exec (.transfer rd16)
    (at_ (runData rd16 .callTransfer 0) .dataPhase)) = some (.access .rdDsta) := by decide
/-- P4: the first word of the buffer DE AD BE EF is pushed as EFBEADDE. -/
theorem test_P4_word_pushed : todo ((at_ (runData wr8 .moveWord 0) .dataPhase).setBuffer
    [(0, 0xDE#8), (1, 0xAD#8), (2, 0xBE#8), (3, 0xEF#8)]) = .access (.wrDat 0xEFBEADDE#32) := by decide
/-- P3: the word 0x03020100 stands in the buffer as 00 01 02 03. -/
theorem test_P3_word_stored : (List.range 4).map (readByte (bufWrite32 [] 0 0x03020100#32)) = [0#8, 1#8, 2#8, 3#8] := by decide
theorem test_waitCompletion : seen (fun t => todo t) (exec .waitCompletion
    (at_ (runData rd16 .callWait 16) .completionPhase)) = some (.access .rdDsta) := by decide
/-- R9, R11: a sub-step asked for by the agenda, not by a turn, follows the configuration too: the first iteration is
counted, an exhausted bound ends the transfer, and DONE_POLL_BOUND starts the completion poll. -/
theorem test_agenda_sub_steps_follow_the_configuration :
    seen (fun t => t.session) (step { at_ (runData rd16 .callTransfer 0) .dataPhase with
      config := otherConfig, agenda := [.op (encode otherConfig (.transfer rd16))] }) =
        some (.execute { runData rd16 .readDsta 0 with i := 1 }) ∧
    seen (fun t => t.pc) (step { at_ (runData rd16 .callTransfer 0) .dataPhase with
      config := bounded 0, agenda := [.op (encode (bounded 0) (.transfer rd16))] }) = some (.failed .dataTimeout) ∧
    seen (fun t => t.session) (step { at_ (runData rd16 .callWait 16) .completionPhase with
      config := otherConfig, agenda := [.op (encode otherConfig .waitCompletion)] }) =
        some (.execute { runData rd16 .pollDsta 16 with n := 7 }) := by decide
/-- F1, F2: the accesses that end the wait are `WR.DSTA 1F0` and `WR.DCON 0`. -/
theorem test_F1_end_of_wait : ([.clearDone, .dataOff] : List ExecPos).map (fun pos =>
    executeTodo ref (runData rd16 pos 16) []) = [.access (.wrDsta 0x1F0#32), .access (.wrDcon 0#32)] := by decide
/-- D1, D5, S1: what ISSUE does with the words 0x800, 0xC00 and 0xA00 read. -/
theorem test_D_command_poll :
    (afterPollCsta 0x900#32 { run8 .pollCsta with n := 2 } ready).session =
      .execute { run8 .pollCsta with n := 1, csta := 0x900#32 } ∧
    (afterPollCsta 0xC00#32 { run8 .pollCsta with n := 2 } ready).pc = .failed .commandTimeout ∧
    todo (afterPollCsta 0x80000A00#32 { run8 .pollCsta with n := 2 } ready) =
      .access (.wrCsta 0xA00#32) := by decide
/-- S7, E4: the error set of the word 0x0A0, and the taxonomy's name for it. -/
theorem test_E4_error_set : errorSet ref.layout.dsta (errorBits ref.layout.dsta 0x0A0#32) = ⟨false, true, false, true⟩ ∧
    taxonomy (.failure (.dataError ⟨false, true, false, false⟩)) = .dataCorruption ∧
    taxonomy (.failure (.dataError ⟨false, false, false, true⟩)) = .dataTimeout := by decide

/-- G1: the accesses of PROBE, in order. -/
theorem test_G1_probe_accesses : ([.softwareReset, .settle, .writeDtimer, .writeBsize, .writeImsk, .configure] :
    List ProbePos).map (probeTodo Config.reference) = [.access (.wrCon 0x100#32), .silent, .access (.wrDtimer 0x7FFFFF#32),
      .access (.wrBsize 0x200#32), .access (.wrImsk 0#32), .access (.wrCon 0x22#32)] := by decide
/-- G2, G3. -/
theorem test_G2_probe_fails :
    seen (fun t => (t.result, t.clock)) (exec (.probe ⟨none, 0, 0, 0⟩) State.reset) =
      some (some (.probe .missingBase), State.reset.clock) ∧
    seen (fun t => (t.result, t.ctrl)) (exec (.probe board) (State.reset.setClock ⟨false, false, 0⟩)) =
      some (some (.probe .clockUnavailable), none) := by decide
/-- Section 2.7. -/
theorem test_setClock_dividers :
    dividerFor 50000000 25000000 = 1 ∧ dividerFor 50000000 400000 = 124 ∧ dividerFor 48000000 25000000 = 1 ∧
    dividerFor 50000000 60000000 = 0 ∧ dividerFor 66500000 400000 = 166 ∧ dividerFor 101 10 = 10 ∧ dividerFor 100 10 = 9 ∧
    dividerFor 1 1 = 0 ∧ dividerFor 0 400000 = 0 ∧ dividerFor 50000000 195313 = 255 ∧ dividerFor 50000000 195312 = 256 := by
  decide
theorem test_setClock :
    seen (fun t => todo t) (exec (.setClock 195313) (ready.setClock ⟨true, true, 50000000⟩)) =
      some (.access (.wrPre 0xFF#32)) ∧
    refuses .dividerTooLarge (exec (.setClock 195312) (ready.setClock ⟨true, true, 50000000⟩)) = true ∧
    seen (fun t => t.result) (exec (.setClock 0) ready) = some (some (.setClock .configurationError)) := by decide
theorem test_cardPresent : seen (fun t => t.result) (exec .cardPresent (ready.setGpio ⟨true, false⟩)) =
    some (some (.cardPresent true)) := by decide
/-- R331: false, whatever the line says. -/
theorem test_writeProtected : seen (fun t => t.result) (exec .writeProtected (ready.setGpio ⟨false, true⟩)) =
    some (some (.writeProtected false)) := by decide
/-- R380. -/
theorem test_not_probed : refuses .notProbed (exec .cardPresent State.reset) = true := by decide

/-! ## Witnesses: for every statement with hypotheses, states and operands that meet them

Each theorem is named after its statement; a statement with several clauses has a witness for each, at the edges of its
ranges. `run8 pos` and `runData d pos off` stand at `pos` by definition. -/

theorem ready_ready : Ready ready := ⟨rfl, rfl, rfl⟩
theorem quiet_ready : EnginesQuiet ready := ⟨rfl, fun _ _ => nofun⟩
theorem admissible_ready : Admissible ready.config := admissible_reference
theorem inv_reset : Inv State.reset :=
  ⟨admissible_reference, rfl, by decide, rfl, .inl rfl, rfl, ⟨rfl, rfl, nofun⟩, rfl⟩
/-- A state in which EXECUTE stands soundly at `x` meets the invariant, whatever fits in the FIFO. -/
theorem inv_at {x : ExecRun} {pc : Phase} (fifo : List Byte) (hf : fifo.length ≤ 64) (h : x.sound Config.reference pc) :
    Inv ((at_ x pc).setFifo fifo) :=
  ⟨admissible_reference, rfl, hf, rfl, .inl rfl, rfl, ⟨rfl, rfl, nofun⟩, rfl, h⟩
/-- The descriptors of the tests pass EXECUTE's validation. -/
theorem validated_rd16 (pos : ExecPos) (off : Nat) : (runData rd16 pos off).validated Config.reference := by
  intro d h; cases h; exact ⟨by decide, rfl⟩
theorem validated_wr8 (pos : ExecPos) (off : Nat) : (runData wr8 pos off).validated Config.reference := by
  intro d h; cases h; exact ⟨by decide, rfl⟩
theorem validated_run8 (pos : ExecPos) : (run8 pos).validated Config.reference := nofun

theorem witness_DecodeOfEncodeIsTheOperation : Admissible Config.reference ∧ Admissible otherConfig :=
  ⟨admissible_reference, admissible_other⟩

theorem witness_AcceptedWordsHaveOneReading : Admissible Config.reference ∧
    (bitAt 0x351#32 ref.layout.ccon.cmdstart = true ∧
      decode ref (.cc 0x351#32) = .ok (.cmdShort 17#6)) ∧
    (decode ref (.dc 0x008B67FF#32) = .ok (.dataRx 2047#11 true) ∧ decode ref (.dc 0#32) = .ok .dataOff) ∧
    decode ref (.access .write 32 0x40 0xFFFFFFFF#32) = .ok (.wrDat 0xFFFFFFFF#32) :=
  ⟨admissible_reference, by decide⟩

theorem witness_ReservedCommandWordsAreRefused :
    let l := ready.config.layout.ccon
    (bitAt 0x540#32 l.cmdstart = true ∧ bitAt 0x540#32 l.longrsp = true ∧ bitAt 0x540#32 l.waitrsp = false) ∧
    (bitAt 0x300#32 l.cmdstart = true ∧ bitAt 0x300#32 l.senderhost = false) ∧
    (bitAt 0x3C0#32 l.cmdstart = true ∧ 0x3C0#32 &&& ~~~maskOf l.fields ≠ 0#32) ∧
    (bitAt 0xB40#32 l.cmdstart = true ∧ 0xB40#32 &&& ~~~maskOf l.fields ≠ 0#32) ∧
    (bitAt 0x80000340#32 l.cmdstart = true ∧ 0x80000340#32 &&& ~~~maskOf l.fields ≠ 0#32) ∧
    (Admissible Config.reference ∧ bitAt (commandWord l ⟨2#6, 0#32, .long⟩) l.longrsp = true) :=
  ⟨by decide, by decide, by decide, by decide, by decide, admissible_reference, by decide⟩

theorem witness_ReservedDataWordsAreRefused :
    let l := ready.config.layout.dcon
    (0x009A7001#32 ≠ 0#32 ∧ 0x009A7001#32 &&& dconFormMask l ≠ dataFormWord l .rx 0#11 false ∧
      0x009A7001#32 &&& dconFormMask l ≠ dataFormWord l .tx 0#11 false) ∧
    Admissible ready.config ∧ bitAt 0x008A2001#32 l.datstart = false ∧
    (l.modeOf 0x008A5001#32 ≠ l.rxStart ∧ l.modeOf 0x008A5001#32 ≠ l.txStart) ∧
    l.datasize.get 0x00127001#32 ≠ l.wordSize ∧ bitAt 0x00907001#32 l.blockmode = false ∧
    (bitAt 0x009A7001#32 l.racmd = true ∧ bitAt 0x009A7001#32 l.tarsp = true) ∧
    (l.modeOf 0x00926001#32 ≠ l.txStart ∧ bitAt 0x00926001#32 l.tarsp = true) ∧
    (l.modeOf 0x008A7001#32 ≠ l.rxStart ∧ bitAt 0x008A7001#32 l.racmd = true) ∧
    ([0x008A6801#32, 0x008AE001#32, 0x008E6001#32, 0x00AA6001#32, 0x018A6001#32, 0x808A6001#32].all
      fun w : Word => decide (w &&& ~~~maskOf l.fields ≠ 0#32)) = true ∧
    (0x008A6000#32 &&& dconFormMask l = dataFormWord l .rx 0#11 false ∧ blknumOf l 0x008A6000#32 = 0#11) ∧
    (0x00927000#32 &&& dconFormMask l = dataFormWord l .tx 0#11 false ∧ blknumOf l 0x00927000#32 = 0#11) :=
  ⟨by decide, admissible_reference, by decide, by decide, by decide, by decide, by decide, by decide, by decide, by decide,
    by decide, by decide⟩

theorem witness_OnlyWordAccessesAtRegisterOffsets :
    Admissible Config.reference ∧
    ((16 : Nat) ≠ 32 ∧ (ready.pushOperation (.access .write 16 0x0C 0#32)).agenda = [.op (.access .write 16 0x0C 0#32)]) ∧
    ((∀ r : Reg, r.offset ready.config.offsets ≠ 0x44) ∧
      (ready.pushOperation (.access .read 32 0x44 0#32)).agenda = [.op (.access .read 32 0x44 0#32)]) ∧
    ((∀ r : Reg, r.offset ready.config.offsets ≠ 0x0E) ∧
      (ready.pushOperation (.access .read 32 0x0E 0#32)).agenda = [.op (.access .read 32 0x0E 0#32)]) := by
  refine ⟨admissible_reference, ⟨by decide, rfl⟩, ⟨?_, rfl⟩, ⟨?_, rfl⟩⟩ <;> intro r <;> cases r <;> decide

theorem witness_ControlWordWritesAreTheirForms :
    decode ready.config (.cn 0x22#32) = .ok (.conCfg true true) ∧
    decode ready.config (.cc 0x51#32) = .ok (.cconStore 17#6 true false false) ∧
    decode ready.config (.dc 0x00937001#32) = .ok (.dataTx 1#11 true) := by decide

theorem witness_ControlWordAssembly :
    Admissible Config.reference ∧ (⟨.rx, 512, 2047, 4, 1048064⟩ : Descriptor).blockCount ≤ 2047 ∧
    (⟨.tx, 512, 0, 1, 0⟩ : Descriptor).blockCount ≤ 2047 := ⟨admissible_reference, by decide, by decide⟩

theorem witness_StepRunsTheDecodedOperation :
    ((ready.pushOperation (encode ref .rdCarg)).agenda = [.op (encode ref .rdCarg)] ∧ decode ref (encode ref .rdCarg) = .ok .rdCarg ∧
      Instr.wf .rdCarg = true ∧ mayRun .rdCarg (ready.pushOperation (encode ref .rdCarg)) = true) ∧
    mayRun .evCmdSent (at_ (run8 .pollCsta) .commandPhase) = true ∧
    (ready.config = Config.reference ∧ decodeTableWord 8 0x08 = some .rdCarg ∧ Instr.wf .rdCarg = true ∧ mayRun .rdCarg ready = true) := by decide

theorem witness_TurnPerformsTheSequencersOperation :
    (∃ t, todo (at_ (run8 .pollCsta) .commandPhase) = .access .rdCsta ∧
      exec .rdCsta (at_ (run8 .pollCsta) .commandPhase) = .next t) ∧
    (∃ v, todo ((at_ (run8 .writeCcon) .commandPhase).setCe (.waitRsp true)) = .access (.wrCcon v) ∧
      exec (.wrCcon v) ((at_ (run8 .writeCcon) .commandPhase).setCe (.waitRsp true)) = .refused .commandInFlight) ∧
    todo (at_ (run8 .callIssue) .commandPhase) = .call (.issue cmd8 none) ∧
    todo ready = .silent ∧ ready.agenda = [] ∧ (ready.setAgenda [.turn]).agenda = .turn :: [] :=
  ⟨⟨_, rfl, rfl⟩, ⟨_, rfl, rfl⟩, rfl, rfl, rfl, rfl⟩

theorem witness_TheSessionIsTheSoleOwner :
    (((at_ (run8 .pollCsta) .commandPhase).pushOperation (encode ref .rdCarg)).agenda = [.op (encode ref .rdCarg)] ∧
      decode ref (encode ref .rdCarg) = .ok .rdCarg ∧ Instr.wf .rdCarg = true ∧ Instr.isEvent .rdCarg = false ∧
      Instr.isSubStep .rdCarg = false ∧ (at_ (run8 .pollCsta) .commandPhase).session ≠ .idle) ∧
    (at_ (run8 .pollCsta) .commandPhase).pc ≠ .idle ∧ ready.session = .idle := by
  decide

theorem witness_ConfigurationRegistersRead :
    Admissible ready.config ∧ ready.regs.clip ready.config.layout = ready.regs ∧
    (sized 4095#32).regs.clip (sized 4095#32).config.layout = (sized 4095#32).regs := ⟨admissible_reference, rfl, rfl⟩

theorem witness_StatusRegistersRead :
    Admissible (withFifo 64).config ∧ (withFifo 64).fifo.length ≤ (withFifo 64).config.fifoDepth ∧
    (withFifo 0).fifo.length ≤ (withFifo 0).config.fifoDepth := ⟨admissible_reference, by decide, by decide⟩

theorem witness_WordRegistersRead :
    (ready.setRegs { ready.regs with rsp0 := some 1#32 }).regs.rsp0 = some 1#32 ∧
    (ready.setRegs { ready.regs with rsp1 := some 1#32 }).regs.rsp1 = some 1#32 ∧
    (ready.setRegs { ready.regs with rsp2 := some 1#32 }).regs.rsp2 = some 1#32 ∧
    (ready.setRegs { ready.regs with rsp3 := some 1#32 }).regs.rsp3 = some 1#32 ∧
    ready.regs.rsp0 = none ∧ ready.regs.rsp1 = none ∧ ready.regs.rsp2 = none ∧ ready.regs.rsp3 = none := by decide

theorem witness_OperandRegistersStore :
    EnginesQuiet ready ∧ ¬ EnginesQuiet (ready.setCe (.waitRsp true)) ∧ ¬ EnginesQuiet (ready.setDe (.active .rx 0)) ∧
    ready.de = .idle ∧ (ready.setDe .done).de = .done ∧ (ready.setDe .err).de = .err ∧
    (ready.setDe (.armed .rx 4)).de = .armed .rx 4 ∧ (ready.setDe (.active .tx 0)).de = .active .tx 0 ∧
    (0#32 : Word) = 0#32 ∧ (1#32 : Word) ≠ 0#32 :=
  ⟨quiet_ready, (fun h => nomatch h.1), (fun h => h.2 .rx 0 rfl), rfl, rfl, rfl, rfl, rfl, rfl, by decide⟩

theorem witness_StatusClearsAreIdempotent :
    exec (.wrCsta 0xFFFFFFFF#32) (withCsta cstaAll .idle) = .next (withCsta ⟨false, false, false⟩ .idle) ∧
    exec (.wrDsta 0xFFFFFFFF#32) (withDsta dstaAll .idle) = .next (withDsta ⟨false, false, false, false, false⟩ .idle) ∧
    Admissible (withDsta dstaAll .idle).config := ⟨rfl, rfl, admissible_reference⟩

theorem witness_SoftwareResetClearsTheBlock :
    bitAt 0x100#32 ready.config.layout.con.sdreset = true ∧ bitAt 0xFFFFFFFF#32 ready.config.layout.con.sdreset = true ∧
    ready.config.reset = Config.reference.reset := by decide

theorem witness_ConfigurationWriteAndFifoReset :
    let l := ready.config.layout.con
    (bitAt 0x20#32 l.sdreset = false ∧ bitAt 0x20#32 l.fiforeset = false) ∧
    (bitAt 2#32 l.sdreset = false ∧ ∀ dir left, ready.de ≠ .active dir left) ∧
    (bitAt 2#32 l.sdreset = false ∧ bitAt 2#32 l.fiforeset = true ∧
      (ready.setDe (.active .tx 0)).de = .active .tx 0) :=
  ⟨by decide, ⟨by decide, fun _ _ => nofun⟩, by decide⟩

theorem witness_CommandFormsArmTheEngine :
    let l := ready.config.layout.ccon
    ready.ce = .idle ∧ (ready.setCe (.waitRsp false)).ce ≠ .idle ∧ bitAt 0x6FF#32 l.cmdstart = false ∧
    ([0x17F#32, 0x340#32, 0x77F#32].all fun v : Word => decide (v &&& ~~~maskOf l.fields = 0#32) && bitAt v l.cmdstart &&
      bitAt v l.senderhost && (!bitAt v l.longrsp || bitAt v l.waitrsp)) = true :=
  ⟨rfl, by decide, by decide, by decide⟩

theorem witness_CommandEngineEvents :
    (ready.setCe (.sending 63#6 1#32 true false)).ce = .sending 63#6 1#32 true false ∧
    ((ready.setCe (.sending 0#6 0#32 false false)).setDe (.armed .rx 4)).de = .armed .rx 4 ∧
    (∀ total, ready.de ≠ .armed .rx total) ∧ (∀ total, (ready.setDe (.armed .tx 4)).de ≠ .armed .rx total) ∧
    (ready.setDe (.armed .tx 4)).de = .armed .tx 4 ∧ (∀ total, (ready.setDe (.armed .rx 4)).de ≠ .armed .tx total) ∧
    (ready.setCe (.waitRsp false)).ce = .waitRsp false ∧ (ready.setCe (.waitRsp true)).ce = .waitRsp true :=
  ⟨rfl, rfl, fun _ => nofun, fun _ => nofun, rfl, fun _ => nofun, rfl, rfl⟩

theorem witness_OneCommandGetsOneAnswer :
    ∃ t, Instr.isEvent (.evRspShort 1#32) = true ∧ oneAnswer (ready.setCe (.waitRsp false)) ∧
      exec (.evRspShort 1#32) (ready.setCe (.waitRsp false)) = .next t ∧ t.regs.csta.rspfin = true :=
  ⟨_, rfl, ⟨nofun, fun _ => ⟨rfl, rfl⟩⟩, rfl, rfl⟩

theorem witness_OnlyCommandOperationsTouchTheCommandEngine :
    ∃ t, exec (.wrCon 0x22#32) (withCsta cstaAll (.waitRsp true)) = .next t ∧
      (∀ v, bitAt v ready.config.layout.con.sdreset = true → Instr.wrCon 0x22#32 ≠ .wrCon v) ∧
      exec (.wrCcon 0x51#32) ready = .next (ready.setRegs { ready.regs with ccon := ⟨17#6, true, false, false⟩ }) ∧
      (∀ v, bitAt v ready.config.layout.ccon.cmdstart = true → Instr.wrCcon 0x51#32 ≠ .wrCcon v) :=
  ⟨_, rfl, by intro v h e; cases e; exact absurd h (by decide), rfl,
    by intro v h e; cases e; exact absurd h (by decide)⟩

theorem witness_DataFormsArmTheEngine :
    let l := ready.config.layout.dcon
    ((sized 1#32).de = .idle ∧ (1#11 : BitVec 11) ≠ 0#11 ∧ (sized 1#32).regs.bsize ≠ 0#32) ∧
    ((sized 4095#32).regs.bsize ≠ 0#32 ∧ (2047#11 : BitVec 11) ≠ 0#11) ∧ (ready.setDe .done).de ≠ .idle ∧
    ready.regs.bsize = 0#32 ∧ Admissible (sized 1#32).config ∧
    (0x008B67FF#32 &&& dconFormMask l = dataFormWord l .rx 0#11 false ∧ blknumOf l 0x008B67FF#32 ≠ 0#11) ∧
    (0x00927001#32 &&& dconFormMask l = dataFormWord l .tx 0#11 false ∧ blknumOf l 0x00927001#32 ≠ 0#11) :=
  ⟨by decide, by decide, by decide, by decide, admissible_reference, by decide, by decide⟩

theorem witness_DataRegisterMovesFourBytes :
    (ready.setFifo [1#8, 2#8, 3#8, 4#8]).fifo = 1#8 :: 2#8 :: 3#8 :: 4#8 :: [] ∧ (withFifo 3).fifo.length < 4 ∧
    (withFifo 60).fifo.length + 4 ≤ (withFifo 60).config.fifoDepth ∧
    (withFifo 61).config.fifoDepth < (withFifo 61).fifo.length + 4 := by decide

theorem witness_FifoKeepsOrder : ready.fifo = [] ∧ 4 * (List.replicate 16 0x44332211#32).length ≤ ready.config.fifoDepth := by decide

theorem witness_DataMovementEvents :
    (((withFifo 60).setDe (.active .rx 4)).de = .active .rx 4 ∧ 1 ≤ [1#8, 2#8, 3#8, 4#8].length ∧
      [1#8, 2#8, 3#8, 4#8].length ≤ 4 ∧ ((withFifo 60).setDe (.active .rx 4)).fifo.length + [1#8, 2#8, 3#8, 4#8].length ≤
        ((withFifo 60).setDe (.active .rx 4)).config.fifoDepth) ∧
    (((withFifo 3).setDe (.active .tx 3)).de = .active .tx 3 ∧ 1 ≤ 3 ∧ 3 ≤ 3 ∧
      3 ≤ ((withFifo 3).setDe (.active .tx 3)).fifo.length) ∧
    (ready.setDe (.active .tx 0)).de = .active .tx 0 ∧ (withFifo 64).config.fifoDepth < (withFifo 64).fifo.length + [1#8].length ∧
    (withFifo 3).fifo.length < 4 := by decide

theorem witness_DataErrorEvents : (ready.setDe (.active .rx 0)).de = .active .rx 0 := rfl

theorem witness_EventsHappenExactlyUnderTheirGuards :
    ∃ t, Instr.isEvent (.evFifoFail true) = true ∧ exec (.evFifoFail true) (ready.setDe (.active .tx 0)) = .next t ∧
      t.regs.dsta ≠ ready.regs.dsta := ⟨_, rfl, rfl, by decide⟩

theorem witness_OnlyDataOperationsTouchEngineAndFifo :
    (∃ t, exec .dataOff (ready.setDe .err) = .next t ∧ t.de ≠ (ready.setDe .err).de) ∧
    (∃ t, exec (.wrDat 1#32) ready = .next t ∧ t.fifo ≠ ready.fifo) :=
  ⟨⟨_, rfl, by decide⟩, ⟨_, rfl, by decide⟩⟩

theorem witness_OnlyEventsSetLatchedFlags :
    ∃ t, Instr.isEvent (.wrCarg 1#32) = false ∧ exec (.wrCarg 1#32) (withCsta cstaAll .idle) = .next t ∧
      t.regs.csta = cstaAll := ⟨_, rfl, rfl, rfl⟩

theorem witness_AccessesAndEventsLeaveTheSequencerAlone :
    (∃ t, hostAccess (.wrCarg 1#32) = true ∧ exec (.wrCarg 1#32) ready = .next t) ∧
    (∃ t, Instr.isEvent .evCmdSent = true ∧ exec .evCmdSent (ready.setCe (.sending 0#6 0#32 false false)) = .next t) :=
  ⟨⟨_, rfl, rfl⟩, ⟨_, rfl, rfl⟩⟩

theorem witness_CardRecordOnlyGrows :
    ∃ t, step ((ready.setCe (.sending 0#6 0#32 false false)).pushOperation (encode ref .evCmdSent)) = .next t ∧
      t.card = [.cmdFrame 0#6 0#32] := ⟨_, rfl, rfl⟩

/-- A state of the FIFO loop, 4 bytes left. -/
theorem inv_reading (fifo : List Byte) (hf : fifo.length ≤ 64) :
    Inv ((at_ (runData rd16 .readDsta 12) .dataPhase).setFifo fifo) :=
  inv_at fifo hf ⟨rfl, validated_rd16 _ _, rfl, by decide, by decide, by decide⟩
theorem inv_writing (fifo : List Byte) (hf : fifo.length ≤ 64) :
    Inv ((at_ (runData wr8 .readDsta 4) .dataPhase).setFifo fifo) :=
  inv_at fifo hf ⟨rfl, validated_wr8 _ _, rfl, by decide, by decide, by decide⟩

theorem witness_EveryStepKeepsTheInvariant :
    (∃ t, Inv State.reset ∧ step State.reset = .next t) ∧
    (∃ t, Inv ((at_ (runData rd16 .readDsta 12) .dataPhase).setFifo []) ∧
      step ((at_ (runData rd16 .readDsta 12) .dataPhase).setFifo []) = .next t) ∧
    (∃ t, Inv { State.reset with config := otherConfig, regs := Regs.afterReset otherConfig.reset } ∧
      step { State.reset with config := otherConfig, regs := Regs.afterReset otherConfig.reset } = .next t) :=
  ⟨⟨_, inv_reset, rfl⟩, ⟨_, inv_reading [] (by decide), rfl⟩,
    ⟨_, ⟨admissible_other, rfl, by decide, rfl, .inr rfl, rfl, ⟨rfl, rfl, nofun⟩, rfl⟩, rfl⟩⟩

theorem witness_NoStepTouchesABytePastTheBuffer :
    Inv ((at_ (runData rd16 .readDsta 12) .dataPhase).setFifo (List.replicate 64 0#8)) := inv_reading _ (by decide)

/-- A state in which EXECUTE stands soundly at `x`, under other parameters of the sequencer, meets the invariant. -/
theorem inv_under {x : ExecRun} {pc : Phase} (c : Config) (hc : Admissible c) (hl : c.layout = ref.layout)
    (h : x.sound c pc) : Inv { at_ x pc with config := c } :=
  ⟨hc, by rw [hl]; rfl, Nat.zero_le _, rfl, .inl rfl, by rw [hl]; rfl, ⟨rfl, rfl, nofun⟩, rfl, h⟩

theorem witness_PhaseChangesAreRowsOfTheTable :
    ∃ t, Inv { at_ (runData rd16 .callTransfer 0) .dataPhase with config := bounded 0 } ∧
      t.pc = .failed .dataTimeout ∧ step { at_ (runData rd16 .callTransfer 0) .dataPhase with config := bounded 0 } = .next t :=
  ⟨_, inv_under _ (admissible_bounded 0) rfl ⟨rfl, by intro d h; cases h; exact ⟨by decide, rfl⟩, rfl, rfl⟩, rfl, rfl⟩

theorem witness_ExecuteValidatesFirst :
    Ready ready ∧ ready.agenda = [] ∧
    (∀ d ∈ ([⟨.rx, 512, 2047, 4, 1048064⟩, ⟨.rx, 4095, 4, 1, 16380⟩, ⟨.tx, 6, 2, 1, 12⟩] : List Descriptor),
      d.blockCount ≤ 2047 ∧ (d.blockSize * d.blockCount) % 4 = 0 ∧ d.bufferLength = d.blockSize * d.blockCount ∧
      (d.busWidth = 1 ∨ d.busWidth = 4) ∧ d.blockCount ≠ 0 ∧ d.blockSize ≠ 0 ∧ d.blockSize ≤ ready.config.layout.bsize.max ∧
      ¬ (d.direction = .tx ∧ cmd8.kind = .none)) ∧
    (∀ d ∈ ([⟨.rx, 6, 1, 4, 6⟩, ⟨.rx, 4, 1, 4, 5⟩, ⟨.rx, 4, 1, 8, 4⟩, ⟨.rx, 512, 0, 4, 0⟩, ⟨.rx, 0, 1, 4, 0⟩,
        ⟨.rx, 4096, 1, 4, 4096⟩] : List Descriptor),
      d.blockCount ≤ 2047 ∧ ((d.blockSize * d.blockCount) % 4 ≠ 0 ∨ d.bufferLength ≠ d.blockSize * d.blockCount ∨
        (d.busWidth ≠ 1 ∧ d.busWidth ≠ 4) ∨ d.blockCount = 0 ∨ d.blockSize = 0 ∨
        ready.config.layout.bsize.max < d.blockSize)) ∧
    (wr8.direction = .tx ∧ (⟨0#6, 0#32, .none⟩ : Command).kind = .none) ∧
    2047 < (⟨.rx, 512, 2048, 4, 1048576⟩ : Descriptor).blockCount :=
  ⟨ready_ready, rfl, by decide, by decide, by decide, by decide⟩

theorem witness_SubStepsStartAtTheirCalls :
    ((at_ (run8 .callIssue) .commandPhase).session = .execute (run8 .callIssue) ∧ (run8 .callIssue).pos = .callIssue) ∧
    ((run8 .callReadResponse).pos = .callReadResponse ∧ (run8 .callReadResponse).cmd.kind ≠ .none) ∧
    (∃ x : ExecRun, x.pos = .callReadResponse ∧ x.cmd.kind = .none ∧ x.data = none) ∧
    (∃ x : ExecRun, x.pos = .callReadResponse ∧ x.cmd.kind = .none ∧ x.data = some rd16) ∧
    ((runData rd16 .callTransfer 0).pos = .callTransfer ∧ (runData rd16 .callTransfer 0).data = some rd16 ∧
      rd16.blockSize * rd16.blockCount ≠ 0 ∧ ready.config.dataLoopBound ≠ some 0 ∧
      (bounded 1).dataLoopBound ≠ some 0) ∧ (runData rd16 .callWait 16).pos = .callWait :=
  ⟨⟨rfl, rfl⟩, ⟨rfl, by decide⟩, ⟨{ newRun ⟨0#6, 0#32, .none⟩ none 0 with pos := .callReadResponse }, rfl, rfl, rfl⟩,
    ⟨{ newRun ⟨0#6, 0#32, .none⟩ (some rd16) 16 with pos := .callReadResponse }, rfl, rfl, rfl⟩, ⟨rfl, rfl, by decide, by decide, by decide⟩, rfl⟩

theorem witness_ProbeChecksBaseThenClock :
    State.reset.session = .idle ∧ State.reset.pc = .idle ∧ (⟨none, 0, 0, 0⟩ : Binding).base = none ∧
    board.base = some 0x4000 ∧ (State.reset.setClock ⟨false, false, 0⟩).clock.available = false ∧
    State.reset.clock.available = true := by decide

theorem witness_SetClockComputesTheDivider :
    Ready (ready.setClock ⟨true, true, 50000000⟩) ∧ (50000000 + 195313 - 1) / 195313 - 1 ≤ ready.config.layout.pre.max ∧
    ready.config.layout.pre.max < (50000000 + 195312 - 1) / 195312 - 1 := ⟨⟨rfl, rfl, rfl⟩, by decide, by decide⟩

theorem witness_CardQueriesAnswerAtOnce : Ready (ready.setGpio ⟨true, true⟩) := ⟨rfl, rfl, rfl⟩

theorem witness_NothingButProbeAfterPowerOn :
    (State.reset.session = .idle ∧ State.reset.pc = .idle ∧ State.reset.ctrl = none) ∧
    (busy.setCtrl none).session = .idle ∧ (busy.setCtrl none).pc = .idle ∧ (busy.setCtrl none).ctrl = none ∧
    (⟨none, 0, 0, 0⟩ : Binding).base = none ∧ (State.reset.setClock ⟨false, false, 0⟩).clock.available = false := by decide

theorem witness_ProbeReachesTheInitialState : Admissible State.reset.config ∧ State.reset.config = Config.reference ∧
    (State.reset.session = .idle ∧ State.reset.pc = .idle ∧ State.reset.agenda = [] ∧ State.reset.clock.available = true) ∧
    (busy.session = .idle ∧ busy.pc = .idle ∧ busy.agenda = [] ∧ busy.clock.available = true) ∧
    board.base = some 0x4000 := ⟨admissible_reference, rfl, by decide, by decide, rfl⟩

theorem witness_SetClockWritesThePrescaler :
    let s := ready.setClock ⟨true, true, 50000000⟩
    Admissible s.config ∧ Ready s ∧ s.ctrl = some ⟨⟨0⟩, none, 0, 0, 0⟩ ∧ EnginesQuiet s ∧ s.agenda = [] ∧
    (195313 : Nat) ≠ 0 ∧ dividerFor s.clock.rate 195313 ≤ s.config.layout.pre.max :=
  ⟨admissible_reference, ⟨rfl, rfl, rfl⟩, rfl, ⟨rfl, fun _ _ => nofun⟩, rfl, by decide, by decide⟩

theorem witness_DividerIsTheSmallestThatFits :
    (400000 : Nat) ≠ 0 ∧ 50000000 ≤ 400000 * (124 + 1) ∧ 50000000 ≤ 50000000 := by decide

/-- A state whose command poll stands at its n-th last read. -/
def polling (n : Nat) (f : CstaFlags) : State :=
  (at_ { run8 .pollCsta with n := n } .commandPhase).setRegs { ready.regs with csta := f }

theorem witness_CommandPollTestsInOrder : Admissible (polling 1 cstaAll).config ∧ Admissible { ready with config := clearing }.config ∧
    ((polling 1 cstaAll).session = .execute { run8 .pollCsta with n := 1 } ∧ (polling 1 cstaAll).agenda = [] ∧
      (polling 1 cstaAll).regs.csta.rspfin = true) ∧
    ((polling 2 ⟨false, true, true⟩).regs.csta.rspfin = false ∧ (polling 2 ⟨false, true, true⟩).regs.csta.cmdtimeout = true) ∧
    ((polling 1 ⟨false, false, true⟩).regs.csta.rspfin = false ∧ (polling 1 ⟨false, false, true⟩).regs.csta.cmdtimeout = false ∧
      ({ run8 .pollCsta with n := 1 } : ExecRun).n ≤ 1) ∧ 1 < ({ run8 .pollCsta with n := 2 } : ExecRun).n :=
  ⟨admissible_reference, admissible_clearing, by decide⟩

theorem witness_CommandPollGivesUpAfterItsBound :
    let s := polling 1 ⟨false, false, true⟩
    Inv s ∧ s.session = .execute { run8 .pollCsta with n := 1 } ∧ s.agenda = [] ∧
    1 ≤ ({ run8 .pollCsta with n := 1 } : ExecRun).n ∧ s.config.clearDconOnFailure = false ∧
    (run8 .pollCsta).data = none ∧ s.regs.csta.cmdtimeout = false ∧
    (if cmd8.kind = .none then s.regs.csta.cmdsent else s.regs.csta.rspfin) = false :=
  ⟨⟨admissible_reference, rfl, by decide, rfl, .inl rfl, rfl, ⟨rfl, rfl, nofun⟩, rfl, rfl, nofun, rfl, rfl⟩,
    rfl, rfl, by decide, rfl, rfl, rfl, rfl⟩

/-- A state whose completion poll stands at its n-th last read. -/
def waiting (n : Nat) (f : DstaFlags) : State :=
  (at_ { runData rd16 .pollDsta 16 with n := n } .completionPhase).setRegs { ready.regs with dsta := f }

theorem witness_CompletionPollTestsInOrder : Admissible (waiting 1 dstaAll).config ∧
    ((waiting 1 dstaAll).session = .execute { runData rd16 .pollDsta 16 with n := 1 } ∧ (waiting 1 dstaAll).agenda = [] ∧
      (waiting 1 dstaAll).regs.dsta.xferfinish = true) ∧
    ((waiting 2 ⟨false, true, true, true, true⟩).regs.dsta.xferfinish = false ∧
      (waiting 2 ⟨false, true, true, true, true⟩).regs.dsta.datatimeout = true) ∧
    ((waiting 1 ⟨false, false, true, true, true⟩).regs.dsta.xferfinish = false ∧
      (waiting 1 ⟨false, false, true, true, true⟩).regs.dsta.datatimeout = false) ∧
    ({ runData rd16 .pollDsta 16 with n := 1 } : ExecRun).n ≤ 1 ∧
    1 < ({ runData rd16 .pollDsta 16 with n := 2 } : ExecRun).n := ⟨admissible_reference, by decide⟩

theorem witness_LateDataErrorsGoUnreported :
    let s := waiting 1 dstaAll
    Admissible s.config ∧ s.session = .execute { runData rd16 .pollDsta 16 with n := 1 } ∧ s.agenda = [] ∧
    s.config.dstaDoneClear &&& maskOf s.config.layout.dsta.fields = maskOf s.config.layout.dsta.fields ∧
    s.regs.dsta.xferfinish = true ∧ s.regs.dsta.crcfail = true := ⟨admissible_reference, by decide⟩

theorem witness_TransferReadMovesTheQueuedBytes :
    let s := (at_ (runData rd16 .readDsta 12) .dataPhase).setFifo [1#8, 2#8, 3#8, 4#8, 5#8]
    Inv s ∧ s.session = .execute (runData rd16 .readDsta 12) ∧ s.config.dataLoopBound = none ∧
      (runData rd16 .readDsta 12).data = some rd16 ∧
      rd16.direction = .rx ∧ (runData rd16 .readDsta 12).rem = 4 * 1 ∧ s.fifo = [1#8, 2#8, 3#8, 4#8] ++ [5#8] ∧
      noErrorFlag s.regs.dsta ∧ s.agenda = [] :=
  ⟨inv_reading _ (by decide), rfl, rfl, rfl, rfl, rfl, rfl, ⟨rfl, rfl, rfl, rfl⟩, rfl⟩

theorem witness_TransferWritePushesTheBufferBytes :
    let s := (at_ (runData wr8 .readDsta 4) .dataPhase).setFifo (List.replicate 32 0#8)
    Inv s ∧ s.session = .execute (runData wr8 .readDsta 4) ∧ s.config.dataLoopBound = none ∧
      (runData wr8 .readDsta 4).data = some wr8 ∧ wr8.direction = .tx ∧ (runData wr8 .readDsta 4).rem = 4 * 1 ∧
      s.fifo.length + 4 * 1 ≤ s.config.txReadyLevel + 4 ∧
      noErrorFlag s.regs.dsta ∧ s.agenda = [] :=
  ⟨inv_writing _ (by decide), rfl, rfl, rfl, rfl, rfl, by decide, ⟨rfl, rfl, rfl, rfl⟩, rfl⟩

theorem witness_TransferCanHangForEver :
    (let s := (at_ (runData rd16 .readDsta 12) .dataPhase).setFifo [1#8, 2#8, 3#8]
     Admissible s.config ∧ s.config.dataLoopBound = none ∧ s.session = .execute (runData rd16 .readDsta 12) ∧
        0 < (runData rd16 .readDsta 12).rem ∧ s.agenda = [] ∧ noErrorFlag s.regs.dsta ∧
        s.fifo.length ≤ s.config.fifoDepth ∧ s.fifo.length < 4) ∧
    (let s := (at_ (runData wr8 .readDsta 4) .dataPhase).setFifo (List.replicate 33 0#8)
     s.session = .execute (runData wr8 .readDsta 4) ∧ s.fifo.length ≤ s.config.fifoDepth ∧
        s.config.txReadyLevel < s.fifo.length) :=
  ⟨⟨admissible_reference, rfl, rfl, by decide, rfl, ⟨rfl, rfl, rfl, rfl⟩, by decide, by decide⟩, rfl, by decide, by decide⟩

theorem witness_TransferAbortsOnAnErrorFlag :
    let s := (at_ (runData rd16 .readDsta 12) .dataPhase).setRegs
      { ready.regs with dsta := ⟨false, false, false, true, false⟩ }
    Admissible s.config ∧ s.config.clearDconOnFailure = false ∧ s.session = .execute (runData rd16 .readDsta 12) ∧
      s.agenda = [] ∧ ¬ noErrorFlag s.regs.dsta :=
  ⟨admissible_reference, rfl, rfl, rfl, fun h => nomatch h.2.2.1⟩

theorem witness_ClearDconOnFailureIdlesTheDataEngine :
    { ready with config := clearing }.config.clearDconOnFailure = true ∧ (runData rd16 .readDsta 0).data = some rd16 ∧ ready.agenda = [] := by decide

theorem witness_DataLoopBoundEndsTheHang :
    let s := { at_ (runData rd16 .callTransfer 0) .dataPhase with config := bounded 1, fifo := [1#8, 2#8, 3#8] }
    Admissible s.config ∧ s.config.dataLoopBound = some 1 ∧ s.config.clearDconOnFailure = false ∧
      s.session = .execute (runData rd16 .callTransfer 0) ∧ (runData rd16 .callTransfer 0).data = some rd16 ∧
      0 < totalBytes rd16 ∧ s.agenda = [] ∧ noErrorFlag s.regs.dsta ∧ s.fifo.length ≤ s.config.fifoDepth ∧
      s.fifo.length < 4 :=
  ⟨admissible_bounded 1, rfl, rfl, rfl, rfl, by decide, rfl, ⟨rfl, rfl, rfl, rfl⟩, by decide, by decide⟩

theorem witness_ExecuteWithoutDataSucceeds :
    let s := ready.setAgenda ([.turn, .turn, .turn, .turn, .turn, .turn] ++
      [.evCmdSent, .evRspShort 0x1AA#32].map (fun i => .op (encode ref i)))
    Admissible s.config ∧ Ready s ∧ s.ce = .idle ∧ s.agenda = [.turn, .turn, .turn, .turn, .turn, .turn] ++
      [.evCmdSent, .evRspShort 0x1AA#32].map (fun i => .op (encode s.config i)) :=
  ⟨admissible_reference, ⟨rfl, rfl, rfl⟩, rfl, rfl⟩

theorem witness_IssueArmsDataThenCommand :
    let s := (at_ (runData rd16 .callIssue 0) .commandPhase).setFifo []
    Inv s ∧ s.session = .execute (runData rd16 .callIssue 0) ∧ (runData rd16 .callIssue 0).data = some rd16 ∧
      s.ce = .idle ∧ s.de = .idle ∧ s.agenda = [] :=
  ⟨inv_at [] (by decide) ⟨rfl, validated_rd16 _ _, rfl, rfl⟩, rfl, rfl, rfl, rfl, rfl⟩

end Sys2Proof.Tests
end

section
/-! The scope of the host and of the sequencer (00_scope.md): what a step takes from the agenda, who may act while a session
operation runs, and the two ends of EXECUTE that the configuration adds (R11). -/

namespace Sys2Proof.Machine

open Host

/-! ## What a step takes from the agenda -/

/-- A step runs the first slot of the agenda on the state without it. -/
theorem step_slot {s : State} {slot : Slot} {rest : List Slot} (h : s.agenda = slot :: rest) :
    step s = runSlot slot (s.setAgenda rest) := by
  unfold step; rw [h]

/-- A step with an encoded operation in front runs the operation it decodes to. -/
theorem step_op {s : State} {e : Encoded} {rest : List Slot} {i : Instr} (ha : s.agenda = .op e :: rest)
    (hd : decode s.config e = .ok i) : step s = runInstr i (s.setAgenda rest) := by
  rw [step_slot ha]
  simp [runSlot, runEncoded, hd]

/-- A well-formed operation that may run has its meaning. -/
theorem runInstr_eq_exec {i : Instr} {s : State} (hw : i.wf = true) (hm : mayRun i s = true) :
    runInstr i s = exec i s := by
  unfold runInstr; rw [if_pos hw, if_pos hm]

/-- A well-formed operation that may not run is refused (R8, R361). -/
theorem runInstr_notOwner {i : Instr} {s : State} (hw : i.wf = true) (hm : mayRun i s = false) :
    runInstr i s = .refused .notOwner := by
  unfold runInstr; rw [if_pos hw, if_neg (by simp [hm])]

/-- A host operation may not run while a session operation does (R8). -/
theorem mayRun_false {i : Instr} {s : State} (he : i.isEvent = false) (hb : i.isSubStep = false)
    (hs : s.session ≠ .idle) : mayRun i s = false := by
  simp [mayRun, he, hb, hs]

/-- A table word that decodes is, under the default layout, an encoded form that decodes. -/
theorem decode_tableEncoded {nbits w : Nat} {i : Instr} (h : decodeTableWord nbits w = some i) :
    decode Config.reference (tableEncoded nbits w) = .ok i := by
  unfold decodeTableWord at h
  split at h
  · next j hj => rw [hj, Option.some.inj h]
  · cases h

/-- Settles O9: the slot in front is the operation, and `withFetchWord` puts the table word there. -/
theorem stepRunsTheDecodedOperation : Obligations.StepRunsTheDecodedOperation := by
  refine ⟨fun s e rest i ha hd hw hm => ?_, fun s nbits w i hc hd hw hm => ?_⟩
  · exact (step_op ha hd).trans (runInstr_eq_exec hw hm)
  · have hd' : decode (s.withFetchWord nbits w).config (tableEncoded nbits w) = .ok i := by
      rw [show (s.withFetchWord nbits w).config = s.config from rfl, hc]
      exact decode_tableEncoded hd
    exact (step_op rfl hd').trans (runInstr_eq_exec hw hm)

/-! ## Turns of the sequencer -/

/-- A turn whose access is refused is refused for the same reason. -/
theorem takeTurn_refused {s : State} {i : Instr} {why : Refusal} (h : todo s = .access i)
    (hx : exec i s = .refused why) : takeTurn s = .refused why := by
  simp [takeTurn, h, hx]

/-- Settles O10: both ways to a turn are `takeTurn`, and the rest is its branches. -/
theorem turnPerformsTheSequencersOperation : Obligations.TurnPerformsTheSequencersOperation := by
  intro s u hu
  have hstep : step s = takeTurn u := by
    obtain ⟨ha, rfl⟩ | ⟨rest, ha, rfl⟩ := hu
    · exact step_empty ha
    · exact step_slot ha
  rw [hstep]
  exact ⟨fun _ _ ht hx => takeTurn_access ht hx, fun _ _ ht hx => takeTurn_refused ht hx,
    fun _ ht => takeTurn_call ht, takeTurn_silent⟩

/-! ## The session as the sole owner (R8, R280) -/

/-- No session operation starts while another runs or its phase stands (R8, R280). -/
theorem startRefusal_busy {s : State} (h : s.session ≠ .idle ∨ s.pc ≠ .idle) (needsController : Bool) :
    startRefusal needsController s = some .sequencerBusy := by
  unfold startRefusal
  rw [if_neg (by rintro ⟨hs, hp⟩; exact h.elim (· hs) (· hp))]

/-- Settles O11: the owner check of a step, the start check of the session operations, and the caller check of the
sub-steps. -/
theorem theSessionIsTheSoleOwner : Obligations.TheSessionIsTheSoleOwner := by
  refine ⟨fun s e rest i ha hd hw he hb hs => ?_, fun s cmd data binding target hbusy => ?_,
    fun cmd data kind d s hs => ?_⟩
  · exact (step_op ha hd).trans (runInstr_notOwner hw (mayRun_false he hb hs))
  · have hr := startRefusal_busy hbusy
    exact ⟨by simp [exec, execExecute, hr], by simp [exec, execProbe, hr], by simp [exec, execSetClock, hr],
      by simp [exec, execCardPresent, hr], by simp [exec, execWriteProtected, hr]⟩
  · exact ⟨by simp [exec, execIssue, hs], by simp [exec, execReadResponse, hs], by simp [exec, execTransfer, hs],
      by simp [exec, execWaitCompletion, hs]⟩

/-! ## CLEAR_DCON_ON_FAILURE (R11, R357) -/

/-- The zero word written to DCON (R173, R236). -/
theorem exec_wrDcon_zero (s : State) : exec (.wrDcon 0#32) s = .next (dataControlOff s) := by
  simp [exec, execWrDcon]

/-- The turn that writes DCON zero after a failure; the return comes next. -/
theorem step_clearDcon {x : ExecRun} {s : State} (hs : s.session = .execute x) (hp : x.pos = .clearDcon)
    (ha : s.agenda = []) : step s = .next ((dataControlOff s).continueAt x .returnFailure) := by
  rw [step_execute_access hs ha (by simp [executeTodo, hp]) (exec_wrDcon_zero s) rfl]
  simp [afterExecuteAccess, hp]

/-- Settles O57: the failure stands at its one access, the zero write of DCON, and then at its return. -/
theorem clearDconOnFailureIdlesTheDataEngine : Obligations.ClearDconOnFailureIdlesTheDataEngine := by
  intro x d why s hclear hd ha
  rw [failExecute_clear hclear hd]
  have hwrite := step_clearDcon (x := { x with pos := .clearDcon })
    (s := (s.continueAt x .clearDcon).setPc (.failed why)) rfl rfl ha
  have hreturn := step_returnFailure (x := { x with pos := .returnFailure }) (why := why)
    (s := (dataControlOff ((s.continueAt x .clearDcon).setPc (.failed why))).continueAt x .returnFailure) rfl rfl rfl ha
  exact (core_run_eq 2 _).trans ((run_succ 1 hwrite).trans (run_one hreturn))

/-! ## DATA_LOOP_BOUND (R11, R344) -/

/-- The FIFO loop of a descriptor cannot go on: no error flag, and the flag of its direction is not set (R304, R401). -/
structure LoopStuck (d : Descriptor) (s : State) : Prop where
  admissible : Admissible s.config
  noEvent : s.agenda = []
  noError : noErrorFlag s.regs.dsta
  fits : s.fifo.length ≤ s.config.fifoDepth
  rx : d.direction = .rx → s.fifo.length < 4
  tx : d.direction = .tx → s.config.txReadyLevel < s.fifo.length

/-- Where EXECUTE stands does not matter to it. -/
theorem LoopStuck.continueAt {d : Descriptor} {s : State} (h : LoopStuck d s) (x : ExecRun) (pos : ExecPos) :
    LoopStuck d (s.continueAt x pos) := ⟨h.admissible, h.noEvent, h.noError, h.fits, h.rx, h.tx⟩

/-- An iteration that moves nothing leaves the loop stuck. -/
theorem LoopStuck.of_same {d : Descriptor} {s t : State} (h : LoopStuck d s) (hst : SameButTransfer s t)
    (hf : t.fifo = s.fifo) : LoopStuck d t := by
  obtain ⟨hc, ha, he, hl, hrx, htx⟩ := h
  constructor <;> simpa only [hst.config, hst.agenda, hst.regs, hf]

/-- EXECUTE ended with DataTimeout, the response it had and the bytes it had not moved, and left the data side alone. -/
structure GaveUp (x : ExecRun) (s t : State) : Prop where
  pc : t.pc = .idle
  session : t.session = .idle
  result : t.result = some (.execute ⟨.failure .dataTimeout, x.resp, x.rem⟩)
  regs : t.regs = s.regs
  fifo : t.fifo = s.fifo
  buffer : t.buffer = s.buffer
  de : t.de = s.de

/-- With bytes left at the bound the loop fails with DataTimeout (R344 (c)). -/
theorem loopHead_bound {x : ExecRun} {s : State} (hr : x.rem ≠ 0) (hb : s.config.dataLoopBound = some x.i) :
    loopHead x s = failExecute .dataTimeout { x with t := some ⟨false, x.rem, 0#32⟩ } s := by
  unfold loopHead; rw [if_neg hr, hb]
  simp [transferReturned]

/-- With bytes left before the bound the loop makes one more iteration, which it counts. -/
theorem loopHead_count {x : ExecRun} {s : State} {bound : Nat} (hr : x.rem ≠ 0)
    (hb : s.config.dataLoopBound = some bound) (hi : x.i ≠ bound) :
    loopHead x s = s.continueAt { x with i := x.i + 1 } .readDsta := by
  unfold loopHead; rw [if_neg hr, hb]
  simp [hi]

/-- A stuck loop with `k` iterations left gives up after them: two turns each, and one for the return. -/
theorem loopHead_gives_up {d : Descriptor} {bound : Nat} (k : Nat) {x : ExecRun} {s : State} (hstuck : LoopStuck d s)
    (hb : s.config.dataLoopBound = some bound) (hclear : s.config.clearDconOnFailure = false)
    (hd : x.data = some d) (hr : x.rem ≠ 0) (hk : x.i + k = bound) :
    ∃ t, run (2 * k + 1) (loopHead x s) = .next t ∧ GaveUp x s t := by
  induction k generalizing x s with
  | zero =>
    have hi : s.config.dataLoopBound = some x.i := by rw [hb, ← hk, Nat.add_zero]
    rw [loopHead_bound hr hi, failExecute_return (.inl hclear)]
    exact ⟨_, run_one (step_returnFailure rfl rfl rfl hstuck.noEvent), rfl, rfl, rfl, rfl, rfl, rfl, rfl⟩
  | succ k ih =>
    rw [loopHead_count hr hb (by omega)]
    obtain ⟨y, u, hrun, hsame, hkept, _, hrem, hfifo, hbuffer⟩ :=
      iteration_nothing (s := s.continueAt { x with i := x.i + 1 } .readDsta)
        hstuck.admissible rfl hstuck.noEvent rfl hd hstuck.fits hstuck.noError hstuck.rx hstuck.tx
    have hstuck' : LoopStuck d u := (hstuck.continueAt _ _).of_same hsame hfifo
    have hcfg : u.config = s.config := hsame.config
    have hk' : y.i + k = bound := by
      rw [show y.i = x.i + 1 from hkept.i]; omega
    obtain ⟨t, ht, hend⟩ := ih hstuck' (hcfg ▸ hb) (hcfg ▸ hclear) (hkept.data.trans hd) (hrem ▸ hr) hk'
    refine ⟨t, ?_, hend.pc, hend.session, ?_, hend.regs.trans hsame.regs, hend.fifo.trans hfifo,
      hend.buffer.trans hbuffer, hend.de.trans hsame.de⟩
    · rw [show 2 * (k + 1) + 1 = 2 + (2 * k + 1) by omega, run_add 2 _ hrun, ht]
    · rw [hend.result, hkept.resp, hrem]

/-- Settles O58, by `loopHead_gives_up` from the call of TRANSFER, where no iteration has been made. -/
theorem dataLoopBoundEndsTheHang : Obligations.DataLoopBoundEndsTheHang := by
  intro bound x d s hc hb hclear hs hp hd htotal ha he hl hrx htx
  have hcall : step s = .next (loopHead { x with off := 0, rem := totalBytes d, i := 0 } s) := by
    rw [step_empty ha, takeTurn_call (i := .transfer d) (by rw [todo_execute hs]; simp [executeTodo, hp, hd])]
    simp [exec, execTransfer, hs, hp, hd]
  obtain ⟨t, ht, hend⟩ := loopHead_gives_up (x := { x with off := 0, rem := totalBytes d, i := 0 }) bound
    ⟨hc, ha, he, hl, hrx, htx⟩ hb hclear hd (Nat.pos_iff_ne_zero.mp htotal) (Nat.zero_add bound)
  refine ⟨t, ?_, hend.pc, hend.session, hend.result, hend.regs, hend.fifo, hend.buffer, hend.de⟩
  rw [show 1 + 2 * bound + 1 = (2 * bound + 1) + 1 by omega]
  exact (core_run_eq _ _).trans ((run_succ _ hcall).trans ht)

end Sys2Proof.Machine
end

section
/-! What one step can change in the state (10_state.md): what an access or an event does to it, said once, and from that the
latched flags (R51), the card record (R43) and the invariant of the machine. -/

namespace Sys2Proof.Machine

open Host

/-! ## What a register access can do -/

/-- The stores of one register that an access makes. -/
inductive RegStore (l : Config.Layout) (r : Regs) : Regs → Prop where
  | clktype (b : Bool) : RegStore l r { r with clktype := b }
  | div (v : Word) : RegStore l r { r with div := l.pre.get v }
  | carg (v : Word) : RegStore l r { r with carg := v }
  | ccon (f : CconFields) : RegStore l r { r with ccon := f }
  | csta (v : Word) : RegStore l r { r with csta := clearCsta l.csta r.csta v }
  | dtimer (v : Word) : RegStore l r { r with dtimer := l.dtimer.get v }
  | bsize (v : Word) : RegStore l r { r with bsize := l.bsize.get v }
  | dsta (v : Word) : RegStore l r { r with dsta := clearDsta l.dsta r.dsta v }
  | imsk : RegStore l r { r with imsk := 0#32 }

/-- What a register access can do (R150). -/
inductive AccessEffect (s : State) : State → Prop where
  | ignored : AccessEffect s s
  | read (v : Word) (n : Nat) : AccessEffect s ((s.setHostWord v).setDraws n)
  | store {r : Regs} (h : RegStore s.config.layout s.regs r) : AccessEffect s (s.setRegs r)
  | pop {bs rest : List Byte} (w : Word) (h : s.fifo = bs ++ rest) : AccessEffect s ((s.setFifo rest).setHostWord w)
  | push (v : Word) (h : s.fifo.length + 4 ≤ s.config.fifoDepth) : AccessEffect s (s.setFifo (s.fifo ++ bytesOf v))
  | reset : AccessEffect s (softwareReset s)
  | emptyFifo (b : Bool) : AccessEffect s ((s.setRegs { s.regs with clktype := b }).setFifo [])
  | armCommand (f : CconFields) (ce : CmdEngine) : AccessEffect s ((storeCcon f s).setCe ce)
  | armData (dir : Direction) (blknum : BitVec 11) (widebus : Bool) (hn : blknum ≠ 0#11) (hb : s.regs.bsize ≠ 0#32) :
    AccessEffect s ((s.setRegs { s.regs with dcon := armingFields s.config.layout.dcon dir blknum widebus }).setDe
      (.armed dir (s.regs.bsize.toNat * blknum.toNat)))
  | dataOff : AccessEffect s (dataControlOff s)

namespace AccessEffect

variable {s t : State}

theorem of_readWithDraw {mask named : Word} (h : readWithDraw mask named s = .next t) : AccessEffect s t := by
  rw [readWithDraw_next h]; exact .read _ _

theorem of_readWhole {w : Word} (h : readWhole w s = .next t) : AccessEffect s t := by
  rw [readWhole_next h]; exact .read w s.draws

theorem of_readResponseRegister {r : Option Word} (h : readResponseRegister r s = .next t) : AccessEffect s t := by
  obtain ⟨v, n, rfl⟩ := readResponseRegister_keeps h; exact .read v n

theorem of_ignoredWrite (h : ignoredWrite s = .next t) : AccessEffect s t := by
  rw [← next_inj.mp h]; exact .ignored

theorem of_updateRegs {r : Regs} (hr : RegStore s.config.layout s.regs r) (h : s.updateRegs r = .next t) :
    AccessEffect s t := by
  rw [← next_inj.mp h]; exact .store hr

theorem of_configure {c f : Bool} (h : configure c f s = .next t) : AccessEffect s t := by
  obtain ⟨_, rfl⟩ | ⟨_, _, rfl⟩ := configure_next h
  · exact .store (.clktype c)
  · exact .emptyFifo c

theorem of_armCommand {index : BitVec 6} {wait long : Bool} (h : Machine.armCommand index wait long s = .next t) :
    AccessEffect s t := by
  obtain ⟨_, rfl⟩ := armCommand_next h; exact .armCommand _ _

theorem of_armData {dir : Direction} {blknum : BitVec 11} {widebus : Bool}
    (h : Machine.armData dir blknum widebus s = .next t) : AccessEffect s t := by
  obtain ⟨_, hn, hb, rfl⟩ := armData_next h; exact .armData dir blknum widebus hn hb

end AccessEffect

/-- A register access has one of the effects of an access. -/
theorem hostAccess_next {i : Instr} {s t : State} (hi : hostAccess i = true) (h : exec i s = .next t) :
    AccessEffect s t := by
  cases i with
  | rdCon | rdPre | rdCcon | rdCsta | rdDtimer | rdBsize | rdDcon | rdDcnt | rdDsta | rdFsta => exact .of_readWithDraw h
  | rdCarg | rdImsk => exact .of_readWhole h
  | rdRsp0 | rdRsp1 | rdRsp2 | rdRsp3 => exact .of_readResponseRegister h
  | wrRsp0 | wrRsp1 | wrRsp2 | wrRsp3 | wrDcnt | wrFsta => exact .of_ignoredWrite h
  | wrCarg v => exact .of_updateRegs (.carg v) h
  | wrCsta v => exact .of_updateRegs (.csta v) h
  | wrDtimer v => exact .of_updateRegs (.dtimer v) h
  | wrDsta v => exact .of_updateRegs (.dsta v) h
  | wrPre v => obtain ⟨_, _, rfl⟩ := execWrPre_next h; exact .store (.div v)
  | wrBsize v => obtain ⟨_, _, rfl⟩ := execWrBsize_next h; exact .store (.bsize v)
  | wrImsk v => obtain ⟨_, rfl⟩ := execWrImsk_next h; exact .store .imsk
  | rdDat =>
    obtain ⟨b0, b1, b2, b3, rest, hf, rfl⟩ := fifoPop_next h
    exact .pop (bs := [b0, b1, b2, b3]) _ hf
  | wrDat v => obtain ⟨hl, rfl⟩ := fifoPush_next h; exact .push v hl
  | wrCon v =>
    obtain ⟨_, rfl⟩ | ⟨_, hc⟩ := execWrCon_next h
    · exact .reset
    · exact .of_configure hc
  | wrCcon v =>
    obtain ⟨_, f, rfl⟩ | ⟨_, _, _, _, ha⟩ := execWrCcon_next h
    · exact .store (.ccon f)
    · exact .of_armCommand ha
  | wrDcon v =>
    obtain rfl | ⟨_, _, _, ha⟩ := execWrDcon_next h
    · exact .dataOff
    · exact .of_armData ha
  | conReset => rw [← next_inj.mp h]; exact .reset
  | conCfg => exact .of_configure h
  | cmdNorsp | cmdShort | cmdLong => exact .of_armCommand h
  | cconStore => rw [← next_inj.mp h]; exact .store (.ccon _)
  | dataRx | dataTx => exact .of_armData h
  | dataOff => rw [← next_inj.mp h]; exact .dataOff
  | execute | issue | readResponse | transfer | waitCompletion | probe | setClock | cardPresent | writeProtected => cases hi
  | evCmdSent | evRspShort | evRspLong | evRspTimeout | evRxBytes | evTxBytes | evDataFinish | evCrcFail | evRxcrcFail
  | evDataTimeout | evFifoFail => cases hi

/-! ## What a device event can do -/

/-- What a device event can do (R210 to R213, R250 to R252, R260 to R264). -/
inductive EventEffect (s : State) : State → Prop where
  | cmdSent (index : BitVec 6) (arg : Word) (ce : CmdEngine) :
    EventEffect s ((((s.appendCard (.cmdFrame index arg)).setRegs
      { s.regs with csta := { s.regs.csta with cmdsent := true } }).setCe ce).setDe (startPhase .rx s.de))
  | shortResponse (w : Word) : EventEffect s (responseArrives [w] (some w) none none none s)
  | longResponse (w0 w1 w2 w3 : Word) :
    EventEffect s (responseArrives [w0, w1, w2, w3] (some w0) (some w1) (some w2) (some w3) s)
  | noResponse : EventEffect s ((s.setRegs { s.regs with csta := { s.regs.csta with cmdtimeout := true } }).setCe .idle)
  | rxBytes (bs : List Byte) {left : Nat} (hde : s.de = .active .rx left)
    (hl : s.fifo.length + bs.length ≤ s.config.fifoDepth) :
    EventEffect s (((s.appendCard (.rxBytes bs)).setFifo (s.fifo ++ bs)).setDe (.active .rx (left - bs.length)))
  | txBytes (k : Nat) {left : Nat} (hde : s.de = .active .tx left) :
    EventEffect s (((s.appendCard (.txBytes (s.fifo.take k))).setFifo (s.fifo.drop k)).setDe (.active .tx (left - k)))
  | dataFinish {dir : Direction} (hde : s.de = .active dir 0) :
    EventEffect s ((s.setRegs { s.regs with dsta := { s.regs.dsta with xferfinish := true } }).setDe .done)
  | dataError (flags : DstaFlags) (stops : Bool) {dir : Direction} {left : Nat} (hde : s.de = .active dir left) :
    EventEffect s ((s.setRegs { s.regs with dsta := flags }).setDe (if stops then .err else .active dir left))

theorem EventEffect.of_dataErrorEvent {flags : DstaFlags} {stops : Bool} {s t : State}
    (h : dataErrorEvent flags stops s = .next t) : EventEffect s t := by
  obtain ⟨_, _, hde, rfl⟩ := dataErrorEvent_next h; exact .dataError flags stops hde

/-- A device event has one of the effects of an event. -/
theorem event_next {i : Instr} {s t : State} (hi : i.isEvent = true) (h : exec i s = .next t) : EventEffect s t := by
  cases i with
  | evCmdSent => obtain ⟨index, arg, _, _, _, rfl⟩ := execEvCmdSent_next h; exact .cmdSent index arg _
  | evRspShort w => obtain ⟨_, rfl⟩ := execEvRspShort_next h; exact .shortResponse w
  | evRspLong w0 w1 w2 w3 => obtain ⟨_, rfl⟩ := execEvRspLong_next h; exact .longResponse w0 w1 w2 w3
  | evRspTimeout => obtain ⟨_, _, rfl⟩ := execEvRspTimeout_next h; exact .noResponse
  | evRxBytes bs => obtain ⟨_, hde, _, _, hl, rfl⟩ := execEvRxBytes_next h; exact .rxBytes bs hde hl
  | evTxBytes k => obtain ⟨_, hde, _, _, _, rfl⟩ := execEvTxBytes_next h; exact .txBytes k hde
  | evDataFinish => obtain ⟨_, hde, rfl⟩ := execEvDataFinish_next h; exact .dataFinish hde
  | evCrcFail | evRxcrcFail | evDataTimeout | evFifoFail => exact .of_dataErrorEvent h
  | _ => cases hi

/-! ## What an operation can do -/

/-- The block as before: configuration, registers, FIFO, both engines and the card record. -/
structure BlockKept (s t : State) : Prop where
  config : t.config = s.config
  regs : t.regs = s.regs
  fifo : t.fifo = s.fifo
  ce : t.ce = s.ce
  de : t.de = s.de
  card : t.card = s.card

/-- An operation is a register access, a device event, or a session operation, which keeps the block. -/
theorem exec_next {i : Instr} {s t : State} (h : exec i s = .next t) :
    (hostAccess i = true ∧ AccessEffect s t) ∨ (i.isEvent = true ∧ EventEffect s t) ∨
      (hostAccess i = false ∧ i.isEvent = false ∧ BlockKept s t) := by
  cases hi : hostAccess i with
  | true => exact .inl ⟨rfl, hostAccess_next hi h⟩
  | false =>
    cases he : i.isEvent with
    | true => exact .inr (.inl ⟨rfl, event_next he h⟩)
    | false =>
      obtain ⟨hconfig, hregs, hfifo, hce, hde, hcard⟩ := sessionOperation_keeps_block hi he h
      exact .inr (.inr ⟨rfl, rfl, hconfig, hregs, hfifo, hce, hde, hcard⟩)

/-! ## The frame of accesses and events (R150) -/

/-- Two states with the same configuration, sequencer, buffer, collaborators, result and agenda. -/
structure SameSequencer (s t : State) : Prop where
  config : t.config = s.config
  pc : t.pc = s.pc
  ctrl : t.ctrl = s.ctrl
  session : t.session = s.session
  buffer : t.buffer = s.buffer
  clock : t.clock = s.clock
  gpio : t.gpio = s.gpio
  result : t.result = s.result
  agenda : t.agenda = s.agenda

theorem AccessEffect.sameSequencer {s t : State} (h : AccessEffect s t) : SameSequencer s t := by
  cases h <;> exact ⟨rfl, rfl, rfl, rfl, rfl, rfl, rfl, rfl, rfl⟩

theorem EventEffect.sameSequencer {s t : State} (h : EventEffect s t) : SameSequencer s t := by
  cases h <;> exact ⟨rfl, rfl, rfl, rfl, rfl, rfl, rfl, rfl, rfl⟩

theorem SameSequencer.sessionSound {s t : State} (h : SameSequencer s t) (hs : s.sessionSound) : t.sessionSound := by
  unfold State.sessionSound at hs ⊢
  rw [h.session, h.pc, h.ctrl, h.config]
  exact hs

/-! ## The latched flags (R51) -/

/-- Every latched flag that is set was set before. -/
structure NoFlagRises (before after : Regs) : Prop where
  rspfin : after.csta.rspfin = true → before.csta.rspfin = true
  cmdtimeout : after.csta.cmdtimeout = true → before.csta.cmdtimeout = true
  cmdsent : after.csta.cmdsent = true → before.csta.cmdsent = true
  xferfinish : after.dsta.xferfinish = true → before.dsta.xferfinish = true
  datatimeout : after.dsta.datatimeout = true → before.dsta.datatimeout = true
  rxcrcfail : after.dsta.rxcrcfail = true → before.dsta.rxcrcfail = true
  crcfail : after.dsta.crcfail = true → before.dsta.crcfail = true
  fifofail : after.dsta.fifofail = true → before.dsta.fifofail = true

theorem NoFlagRises.of_same {r r' : Regs} (hc : r'.csta = r.csta) (hd : r'.dsta = r.dsta) : NoFlagRises r r' := by
  constructor <;> simp only [hc, hd, imp_self]

/-- Write one to clear sets nothing. -/
theorem w1c_true {flag bit : Bool} (h : w1c flag bit = true) : flag = true := (Bool.and_eq_true_iff.mp h).1

theorem RegStore.noFlagRises {l : Config.Layout} {r r' : Regs} (h : RegStore l r r') : NoFlagRises r r' := by
  cases h with
  | csta => exact ⟨w1c_true, w1c_true, w1c_true, id, id, id, id, id⟩
  | dsta => exact ⟨id, id, id, w1c_true, w1c_true, w1c_true, w1c_true, w1c_true⟩
  | clktype | div | carg | ccon | dtimer | bsize | imsk => exact .of_same rfl rfl

theorem AccessEffect.noFlagRises {s t : State} (h : AccessEffect s t) : NoFlagRises s.regs t.regs := by
  cases h with
  | store hr => exact hr.noFlagRises
  | reset => exact ⟨nofun, nofun, nofun, nofun, nofun, nofun, nofun, nofun⟩
  | ignored | read | pop | push | emptyFifo | armCommand | armData | dataOff => exact .of_same rfl rfl

/-- Settles O33: an access clears flags at most, and a session operation keeps the register block. -/
theorem onlyEventsSetLatchedFlags : Obligations.OnlyEventsSetLatchedFlags := by
  intro i s t he h
  have hrise : NoFlagRises s.regs t.regs := by
    obtain ⟨_, ha⟩ | ⟨hevent, _⟩ | ⟨_, _, hkept⟩ := exec_next h
    · exact ha.noFlagRises
    · rw [he] at hevent; cases hevent
    · rw [hkept.regs]; exact .of_same rfl rfl
  obtain ⟨h1, h2, h3, h4, h5, h6, h7, h8⟩ := hrise
  exact ⟨h1, h2, h3, h4, h5, h6, h7, h8⟩

/-! ## The card record (R43) -/

theorem AccessEffect.card {s t : State} (h : AccessEffect s t) : t.card = s.card := by cases h <;> rfl

/-- An event appends one item to the card record, or none. -/
theorem EventEffect.card {s t : State} (h : EventEffect s t) : s.card <+: t.card := by
  cases h with
  | cmdSent | shortResponse | longResponse | rxBytes | txBytes => exact List.prefix_append _ _
  | noResponse | dataFinish | dataError => exact List.prefix_rfl

theorem exec_card {i : Instr} {s t : State} (h : exec i s = .next t) : s.card <+: t.card := by
  obtain ⟨_, ha⟩ | ⟨_, he⟩ | ⟨_, _, hkept⟩ := exec_next h
  · rw [ha.card]
  · exact he.card
  · rw [hkept.card]

theorem takeTurn_card {s t : State} (h : takeTurn s = .next t) : s.card <+: t.card := by
  obtain ⟨i, u, _, hx, rfl⟩ | ⟨i, _, hx⟩ | ⟨_, rfl⟩ := takeTurn_next h
  · rw [(sameBlock_afterAccess u).card]; exact exec_card hx
  · exact exec_card hx
  · rw [(sameBlock_silentStep s).card]

/-- Settles O35: turns and operations extend the card record, and nothing else touches it. -/
theorem cardRecordOnlyGrows : Obligations.CardRecordOnlyGrows := by
  intro s t h
  obtain ⟨u, hu, hstep⟩ := step_next h
  have hsu : u.card = s.card := by obtain rfl | ⟨_, rfl⟩ := hu <;> rfl
  have hut : u.card <+: t.card := by
    obtain ht | ⟨i, _, _, hx⟩ | ⟨c, rfl⟩ | ⟨g, rfl⟩ | ⟨offset, b, _, rfl⟩ := hstep
    · exact takeTurn_card ht
    · exact exec_card hx
    all_goals exact List.prefix_rfl
  obtain ⟨more, hmore⟩ := hut
  exact ⟨more, by rw [← hmore, hsu]⟩

end Sys2Proof.Machine
end

section
/-! The invariant of the machine (R27, R34, R40, R42, R62, R303, R335): the block's half is kept by every access and event, the
sequencer's half by every turn. -/

namespace Sys2Proof.Machine

open Host

/-! ## The block's half of the invariant -/

/-- The invariant's clauses about the configuration, the registers, the FIFO and the data engine. -/
structure BlockSound (c : Config) (r : Regs) (fifo : List Byte) (de : DataEngine) : Prop where
  configAdmissible : Admissible c
  regsFit : r.clip c.layout = r
  fifoFits : fifo.length ≤ c.fifoDepth
  imskSound : r.imsk = 0#32 ∨ r.imsk = c.reset.imsk
  dconSound : dconSound c.layout.dcon r.dcon de
  responsesSound : r.responsesSound

theorem Inv.block {s : State} (h : Inv s) : BlockSound s.config s.regs s.fifo s.de :=
  ⟨h.configAdmissible, h.regsFit, h.fifoFits, h.imskSound, h.dconSound, h.responsesSound⟩

/-- The invariant is its block's half, the canonical buffer and the sequencer's half. -/
theorem BlockSound.inv {s : State} (h : BlockSound s.config s.regs s.fifo s.de) (hm : s.buffer.wf = true)
    (hs : s.sessionSound) : Inv s :=
  ⟨h.configAdmissible, h.regsFit, h.fifoFits, hm, h.imskSound, h.dconSound, h.responsesSound, hs⟩

/-- The register values fit their fields when the five that are wider than a field are not cut. -/
theorem Regs.clip_eq_iff {l : Config.Layout} {r : Regs} :
    r.clip l = r ↔ l.pre.clip r.div = r.div ∧ l.dtimer.clip r.dtimer = r.dtimer ∧ l.bsize.clip r.bsize = r.bsize ∧
      l.dcon.datmodeValue.clip r.dcon.datmode = r.dcon.datmode ∧ l.dcon.datasize.clip r.dcon.datasize = r.dcon.datasize := by
  obtain ⟨_, _, _, _, _, _, _, _, _, _, _, ⟨_, _, _, _, _, _, _⟩, _, _⟩ := r
  simp [Regs.clip]

@[simp] theorem clip_zero (f : Field) : f.clip 0#32 = 0#32 := by simp [Field.clip]

theorem armingFields_fit {c : Config} (hc : Admissible c) (dir : Direction) (blknum : BitVec 11) (widebus : Bool) :
    c.layout.dcon.datmodeValue.clip (armingFields c.layout.dcon dir blknum widebus).datmode =
        (armingFields c.layout.dcon dir blknum widebus).datmode ∧
      c.layout.dcon.datasize.clip (armingFields c.layout.dcon dir blknum widebus).datasize =
        (armingFields c.layout.dcon dir blknum widebus).datasize := by
  obtain ⟨hrx, htx, hsize⟩ := hc.dataValues
  cases dir with
  | rx => exact ⟨hrx, hsize⟩
  | tx => exact ⟨htx, hsize⟩

/-- The automatic start keeps DCON and the data engine in agreement (R235). -/
theorem dconSound_startPhase {l : Config.DconLayout} {dcon : DconFields} {de : DataEngine} (dir : Direction)
    (h : dconSound l dcon de) : dconSound l dcon (startPhase dir de) := by
  obtain ⟨total, rfl, hstart⟩ | ⟨_, hstay⟩ := startPhase_cases dir de
  · rw [hstart]; exact h.2
  · rw [hstay]; exact h

theorem RegStore.fits {l : Config.Layout} {r r' : Regs} (h : RegStore l r r') (hr : r.clip l = r) : r'.clip l = r' := by
  rw [Regs.clip_eq_iff] at hr ⊢
  obtain ⟨hdiv, hdtimer, hbsize, hdcon⟩ := hr
  cases h with
  | div v => exact ⟨clip_get _ v, hdtimer, hbsize, hdcon⟩
  | dtimer v => exact ⟨hdiv, clip_get _ v, hbsize, hdcon⟩
  | bsize v => exact ⟨hdiv, hdtimer, clip_get _ v, hdcon⟩
  | clktype | carg | ccon | csta | dsta | imsk => exact ⟨hdiv, hdtimer, hbsize, hdcon⟩

/-- What a store leaves of the registers that the invariant relates to each other. -/
theorem RegStore.keeps {l : Config.Layout} {r r' : Regs} (h : RegStore l r r') :
    (r'.imsk = 0#32 ∨ r'.imsk = r.imsk) ∧ r'.dcon = r.dcon ∧ r'.rsp0 = r.rsp0 ∧ r'.rsp1 = r.rsp1 ∧ r'.rsp2 = r.rsp2 ∧
      r'.rsp3 = r.rsp3 := by
  cases h with
  | imsk => exact ⟨.inl rfl, rfl, rfl, rfl, rfl, rfl⟩
  | clktype | div | carg | ccon | csta | dtimer | bsize | dsta => exact ⟨.inr rfl, rfl, rfl, rfl, rfl, rfl⟩

namespace BlockSound

variable {c : Config} {r : Regs} {fifo : List Byte} {de : DataEngine}

theorem setFifo {fifo' : List Byte} (h : BlockSound c r fifo de) (hl : fifo'.length ≤ c.fifoDepth) :
    BlockSound c r fifo' de :=
  ⟨h.configAdmissible, h.regsFit, hl, h.imskSound, h.dconSound, h.responsesSound⟩

theorem setDe {de' : DataEngine} (h : BlockSound c r fifo de) (hd : Machine.dconSound c.layout.dcon r.dcon de') :
    BlockSound c r fifo de' :=
  ⟨h.configAdmissible, h.regsFit, h.fifoFits, h.imskSound, hd, h.responsesSound⟩

theorem store {r' : Regs} (h : BlockSound c r fifo de) (hr : RegStore c.layout r r') : BlockSound c r' fifo de := by
  obtain ⟨himsk, hdcon, h0, h1, h2, h3⟩ := hr.keeps
  refine ⟨h.configAdmissible, hr.fits h.regsFit, h.fifoFits, ?_, hdcon ▸ h.dconSound, ?_⟩
  · obtain himsk | himsk := himsk
    · exact .inl himsk
    · rw [himsk]; exact h.imskSound
  · unfold Regs.responsesSound
    rw [h0, h1, h2, h3]
    exact h.responsesSound

/-- New latched flags and a new state of the data engine. -/
theorem setFlags {de' : DataEngine} (h : BlockSound c r fifo de) (csta : CstaFlags) (dsta : DstaFlags)
    (hd : Machine.dconSound c.layout.dcon r.dcon de') :
    BlockSound c { r with csta := csta, dsta := dsta } fifo de' :=
  ⟨h.configAdmissible, Regs.clip_eq_iff.mpr (Regs.clip_eq_iff (r := r).mp h.regsFit), h.fifoFits, h.imskSound, hd, h.responsesSound⟩

/-- A response, one word or four, and a new state of the data engine. -/
theorem setResponse {de' : DataEngine} {csta : CstaFlags} {r0 r1 r2 r3 : Option Word} (h : BlockSound c r fifo de)
    (hr : ({ r with rsp0 := r0, rsp1 := r1, rsp2 := r2, rsp3 := r3, csta := csta } : Regs).responsesSound)
    (hd : Machine.dconSound c.layout.dcon r.dcon de') :
    BlockSound c { r with rsp0 := r0, rsp1 := r1, rsp2 := r2, rsp3 := r3, csta := csta } fifo de' :=
  ⟨h.configAdmissible, Regs.clip_eq_iff.mpr (Regs.clip_eq_iff (r := r).mp h.regsFit), h.fifoFits, h.imskSound, hd, hr⟩

/-- New stored fields of DCON that agree with a new state of the data engine. -/
theorem setDcon {dcon : DconFields} {de' : DataEngine} (h : BlockSound c r fifo de)
    (hfit : c.layout.dcon.datmodeValue.clip dcon.datmode = dcon.datmode ∧
      c.layout.dcon.datasize.clip dcon.datasize = dcon.datasize)
    (hd : Machine.dconSound c.layout.dcon dcon de') : BlockSound c { r with dcon := dcon } fifo de' := by
  obtain ⟨hdiv, hdtimer, hbsize, _⟩ := Regs.clip_eq_iff.mp h.regsFit
  exact ⟨h.configAdmissible, Regs.clip_eq_iff.mpr ⟨hdiv, hdtimer, hbsize, hfit⟩, h.fifoFits, h.imskSound, hd,
    h.responsesSound⟩

/-- What software reset leaves (R381). -/
theorem afterReset (hc : Admissible c) : BlockSound c (Regs.afterReset c.reset) [] .idle :=
  ⟨hc, hc.resetValues, Nat.zero_le _, .inr rfl, rfl, ⟨rfl, rfl, nofun⟩⟩

end BlockSound

theorem AccessEffect.blockSound {s t : State} (h : AccessEffect s t) (hs : BlockSound s.config s.regs s.fifo s.de) :
    BlockSound t.config t.regs t.fifo t.de := by
  cases h with
  | ignored | read => exact hs
  | store hr => exact hs.store hr
  | pop w hf =>
    have hl := hs.fifoFits
    rw [hf, List.length_append] at hl
    exact hs.setFifo (Nat.le_of_add_left_le hl)
  | push v hl => exact hs.setFifo (by simpa using hl)
  | reset => exact .afterReset hs.configAdmissible
  | emptyFifo b => exact (hs.store (.clktype b)).setFifo (Nat.zero_le _)
  | armCommand f => exact hs.store (.ccon f)
  | armData dir blknum widebus hn hb =>
    have htotal : 0 < s.regs.bsize.toNat * blknum.toNat :=
      Nat.mul_pos (Nat.pos_of_ne_zero fun h0 => hb (BitVec.eq_of_toNat_eq h0))
        (Nat.pos_of_ne_zero fun h0 => hn (BitVec.eq_of_toNat_eq h0))
    exact hs.setDcon (armingFields_fit hs.configAdmissible dir blknum widebus) ⟨htotal, blknum, widebus, hn, rfl⟩
  | dataOff => exact hs.setDcon ⟨clip_zero _, clip_zero _⟩ rfl

theorem EventEffect.blockSound {s t : State} (h : EventEffect s t) (hs : BlockSound s.config s.regs s.fifo s.de) :
    BlockSound t.config t.regs t.fifo t.de := by
  have hd := hs.dconSound
  cases h with
  | cmdSent => exact hs.setFlags _ _ (dconSound_startPhase .rx hd)
  | shortResponse w => exact hs.setResponse ⟨rfl, rfl, nofun⟩ (dconSound_startPhase .tx hd)
  | longResponse w0 w1 w2 w3 => exact hs.setResponse ⟨rfl, rfl, fun _ => rfl⟩ (dconSound_startPhase .tx hd)
  | noResponse => exact hs.setFlags _ _ hd
  | rxBytes bs hde hl =>
    rw [hde] at hd
    exact (hs.setFifo (by simpa using hl)).setDe hd
  | txBytes k hde =>
    rw [hde] at hd
    have hl : (s.fifo.drop k).length ≤ s.config.fifoDepth := (List.drop_sublist k s.fifo).length_le.trans hs.fifoFits
    exact (hs.setFifo hl).setDe hd
  | dataFinish hde =>
    rw [hde] at hd
    exact hs.setFlags _ _ ⟨_, hd⟩
  | dataError flags stops hde =>
    rw [hde] at hd
    cases stops with
    | true => exact hs.setFlags _ _ ⟨_, hd⟩
    | false => exact hs.setFlags _ _ hd

/-! ## Steps that leave one half of the invariant alone -/

namespace Inv

variable {s t : State}

theorem of_sameSequencer (h : Inv s) (hb : BlockSound t.config t.regs t.fifo t.de) (hs : SameSequencer s t) : Inv t :=
  hb.inv (hs.buffer ▸ h.bufferWf) (hs.sessionSound h.sessionSound)

theorem access (h : Inv s) (ha : AccessEffect s t) : Inv t :=
  h.of_sameSequencer (ha.blockSound h.block) ha.sameSequencer

theorem event (h : Inv s) (he : EventEffect s t) : Inv t :=
  h.of_sameSequencer (he.blockSound h.block) he.sameSequencer

theorem of_sameBlock (h : Inv s) (hb : SameBlock s t) (hm : t.buffer.wf = true) (hs : t.sessionSound) : Inv t := by
  have hblock := h.block
  rw [← hb.config, ← hb.regs, ← hb.fifo, ← hb.de] at hblock
  exact hblock.inv hm hs

theorem setAgenda (h : Inv s) (v : List Slot) : Inv (s.setAgenda v) :=
  BlockSound.inv h.block h.bufferWf h.sessionSound

theorem setClock (h : Inv s) (v : ClockService) : Inv (s.setClock v) :=
  BlockSound.inv h.block h.bufferWf h.sessionSound

theorem setGpio (h : Inv s) (v : GpioService) : Inv (s.setGpio v) :=
  BlockSound.inv h.block h.bufferWf h.sessionSound

theorem setBuffer (h : Inv s) {v : Memory} (hv : v.wf = true) : Inv (s.setBuffer v) :=
  BlockSound.inv h.block hv h.sessionSound

/-- A session operation that runs with the phase Idle ends, or hands back its result at once. -/
theorem endSession (h : Inv s) (hp : s.pc = .idle) (r : SessionResult) : Inv (s.endSession r) :=
  h.of_sameBlock (sameBlock_endSession s r) h.bufferWf hp

/-! ## EXECUTE goes on -/

theorem continueAt (h : Inv s) {x : ExecRun} {pos : ExecPos} (hc : s.ctrl.isSome = true)
    (hx : ({ x with pos := pos } : ExecRun).sound s.config s.pc) : Inv (s.continueAt x pos) :=
  h.of_sameBlock (sameBlock_continueAt s x pos) h.bufferWf ⟨hc, hx⟩

theorem continueAt_setPc (h : Inv s) {x : ExecRun} {pos : ExecPos} {pc : Phase} (hc : s.ctrl.isSome = true)
    (hx : ({ x with pos := pos } : ExecRun).sound s.config pc) : Inv ((s.continueAt x pos).setPc pc) :=
  h.of_sameBlock ((sameBlock_continueAt s x pos).trans (sameBlock_setPc _ pc)) h.bufferWf ⟨hc, hx⟩

theorem failExecute (h : Inv s) (hc : s.ctrl.isSome = true) (why : Failure) (x : ExecRun) :
    Inv (Machine.failExecute why x s) := by
  cases hclear : s.config.clearDconOnFailure && x.data.isSome with
  | true =>
    simp only [Machine.failExecute, hclear, if_true]
    exact h.continueAt_setPc hc ⟨⟨why, rfl⟩, (Bool.and_eq_true_iff.mp hclear).2⟩
  | false =>
    simp only [Machine.failExecute, hclear]
    exact h.continueAt_setPc hc ⟨why, rfl⟩


end Inv

/-! ## EXECUTE when a sub-step returns -/

/-- In CommandPhase, with the descriptor validated and no byte moved. -/
structure ExecRun.InCommand (x : ExecRun) (c : Config) (pc : Phase) : Prop where
  phase : pc = .commandPhase
  validated : x.validated c
  whole : x.rem = x.total

/-- In DataPhase, with the bytes moved accounted for in whole words (R303). -/
structure ExecRun.InTransfer (x : ExecRun) (c : Config) (pc : Phase) : Prop where
  phase : pc = .dataPhase
  validated : x.validated c
  hasData : x.data.isSome = true
  accounted : x.off + x.rem = x.total
  aligned : x.off % 4 = 0

/-- In CompletionPhase of a transfer, with every byte moved. -/
structure ExecRun.InCompletion (x : ExecRun) (c : Config) (pc : Phase) : Prop where
  phase : pc = .completionPhase
  validated : x.validated c
  hasData : x.data.isSome = true
  moved : x.rem = 0

/-- The byte count of a validated descriptor is one of whole words (R133). -/
theorem ExecRun.total_aligned {x : ExecRun} {c : Config} (hv : x.validated c) : x.total % 4 = 0 := by
  unfold ExecRun.total
  split
  · rfl
  · next d hd =>
    obtain ⟨_, hcontract⟩ := hv d hd
    exact ((contract_iff c x.cmd d).mp hcontract).1

namespace Inv

variable {s t : State} {x : ExecRun}

theorem issueReturned (h : Inv s) (hc : s.ctrl.isSome = true) (hx : x.InCommand s.config s.pc) (hr : x.resp = .none)
    (r : IssueResult) : Inv (Machine.issueReturned r x s) := by
  obtain ⟨hpc, hv, hrem⟩ := hx
  cases r with
  | sent | responded => exact h.continueAt hc ⟨hpc, hv, hrem, hr⟩
  | timedOut => exact h.failExecute hc _ _

theorem responseReturned (h : Inv s) (hc : s.ctrl.isSome = true) (hx : x.InCommand s.config s.pc) (resp : Response) :
    Inv (Machine.responseReturned resp x s) := by
  obtain ⟨_, hv, hrem⟩ := hx
  unfold Machine.responseReturned
  split
  · next hd => exact h.continueAt_setPc hc ⟨rfl, hv, by simp [hrem, ExecRun.total, hd]⟩
  · next hd => exact h.continueAt_setPc hc ⟨rfl, hv, hrem, by simp [hd]⟩

theorem transferReturned (h : Inv s) (hc : s.ctrl.isSome = true) (hv : x.validated s.config) (hd : x.data.isSome = true)
    {r : TransferResult} (hr : r.ok = true → r.bytesRemaining = 0) : Inv (Machine.transferReturned r x s) := by
  unfold Machine.transferReturned
  split
  · next hok => exact h.continueAt_setPc hc ⟨rfl, hv, hd, hr hok⟩
  · split <;> exact h.failExecute hc _ _

theorem waitReturned (h : Inv s) (hc : s.ctrl.isSome = true) (hx : x.InCompletion s.config s.pc) (r : WaitResult) :
    Inv (Machine.waitReturned r x s) := by
  cases r with
  | finished => exact h.continueAt hc ⟨hx.phase, hx.validated, hx.moved⟩
  | timedOut => exact h.failExecute hc _ _

theorem loopHead (h : Inv s) (hc : s.ctrl.isSome = true) (hx : x.InTransfer s.config s.pc) :
    Inv (Machine.loopHead x s) := by
  obtain ⟨hpc, hv, hd, hacc, hal⟩ := hx
  unfold Machine.loopHead
  split
  · exact h.transferReturned hc hv hd fun _ => rfl
  · next hrem =>
    split
    · exact h.continueAt hc ⟨hpc, hv, hd, hacc, hal, Nat.pos_of_ne_zero hrem⟩
    · split
      · exact h.transferReturned hc hv hd nofun
      · exact h.continueAt hc ⟨hpc, hv, hd, hacc, hal, Nat.pos_of_ne_zero hrem⟩

/-! ## EXECUTE after an access of its own -/

theorem afterPollCsta (h : Inv s) (hc : s.ctrl.isSome = true) (hx : x.InCommand s.config s.pc) (hr : x.resp = .none)
    (v : Word) : Inv (Machine.afterPollCsta v x s) := by
  have hx' : ∀ n, ({ x with csta := v, n := n } : ExecRun).InCommand s.config s.pc :=
    fun _ => ⟨hx.phase, hx.validated, hx.whole⟩
  have hgo : s.pc = .commandPhase ∧ x.validated s.config ∧ x.rem = x.total ∧ x.resp = .none :=
    ⟨hx.phase, hx.validated, hx.whole, hr⟩
  unfold Machine.afterPollCsta
  split
  · exact h.continueAt hc hgo
  · split
    · exact h.issueReturned hc (hx' x.n) hr _
    · split
      · exact h.issueReturned hc (hx' _) hr _
      · exact h.continueAt hc hgo

theorem afterPollDsta (h : Inv s) (hc : s.ctrl.isSome = true) (hx : x.InCompletion s.config s.pc) (v : Word) :
    Inv (Machine.afterPollDsta v x s) := by
  obtain ⟨hpc, hv, hd, hrem⟩ := hx
  have hx' : ∀ n, ({ x with dsta := v, n := n } : ExecRun).InCompletion s.config s.pc := fun _ => ⟨hpc, hv, hd, hrem⟩
  unfold Machine.afterPollDsta
  split
  · exact h.continueAt hc ⟨hpc, hv, hd, hrem⟩
  · split
    · exact h.waitReturned hc (hx' x.n) _
    · split
      · exact h.waitReturned hc (hx' _) _
      · exact h.continueAt hc ⟨hpc, hv, hd, hrem⟩

/-- The tests of one iteration: an error, one more iteration, or the move of a word. -/
theorem afterStatus (h : Inv s) (hc : s.ctrl.isSome = true) (hx : x.InTransfer s.config s.pc)
    (hmore : 0 < x.rem) : Inv (Machine.afterStatus x s) := by
  have hloop := h.loopHead hc hx
  obtain ⟨hpc, hv, hd, hacc, hal⟩ := hx
  have hmove := h.continueAt (pos := .moveWord) hc ⟨hpc, hv, hd, hacc, hal, hmore⟩
  unfold Machine.afterStatus
  split
  · exact h.transferReturned hc hv hd nofun
  · split
    · exact h
    · split
      · split
        · exact hloop
        · exact hmove
      · split
        · exact hmove
        · exact hloop

/-- A word was moved: the offset and the rest of the byte count stay accounted for (R303). -/
theorem afterMove (h : Inv s) (hc : s.ctrl.isSome = true) (hx : x.InTransfer s.config s.pc) (hmore : 0 < x.rem)
    (v : Word) : Inv (Machine.afterMove v x s) := by
  obtain ⟨hpc, hv, hd, hacc, hal⟩ := hx
  have htotal := ExecRun.total_aligned hv
  have hx' : ∀ w, ({ x with w := w, off := x.off + 4, rem := x.rem - 4 } : ExecRun).InTransfer s.config s.pc := fun _ =>
    ⟨hpc, hv, hd, show x.off + 4 + (x.rem - 4) = x.total by omega, show (x.off + 4) % 4 = 0 by omega⟩
  unfold Machine.afterMove
  split
  · exact h
  · split
    · exact (h.setBuffer (wf_bufWrite32 x.off v h.bufferWf)).loopHead hc (hx' v)
    · exact h.loopHead hc (hx' _)

/-- Where EXECUTE stands, as the invariant says it. -/
theorem run_sound (h : Inv s) (hs : s.session = .execute x) : s.ctrl.isSome = true ∧ x.sound s.config s.pc := by
  have hsound := h.sessionSound
  simpa only [State.sessionSound, hs] using hsound

/-- Where EXECUTE stands after each access fits the phase. -/
theorem afterExecuteAccess (h : Inv s) (hs : s.session = .execute x) (v : Word) :
    Inv (Machine.afterExecuteAccess v x s) := by
  obtain ⟨hc, hx⟩ := h.run_sound hs
  unfold ExecRun.sound at hx
  unfold Machine.afterExecuteAccess
  cases hp : x.pos <;> simp only [hp] at hx ⊢
  case clearCsta | clearDsta | writeBsize | writeCarg | writeCcon => exact h.continueAt hc hx
  case writeDcon =>
    obtain ⟨hpc, hv, hrem, hr, _⟩ := hx
    exact h.continueAt hc ⟨hpc, hv, hrem, hr⟩
  case clearFsta =>
    obtain ⟨hpc, hv, hrem, hr⟩ := hx
    cases hd : x.data.isSome with
    | true => exact h.continueAt hc ⟨hpc, hv, hrem, hr, hd⟩
    | false => exact h.continueAt hc ⟨hpc, hv, hrem, hr⟩
  case pollCsta =>
    obtain ⟨hpc, hv, hrem, hr⟩ := hx
    exact h.afterPollCsta hc ⟨hpc, hv, hrem⟩ hr v
  case clearConsumed =>
    obtain ⟨hpc, hv, hrem, hr⟩ := hx
    exact h.issueReturned hc ⟨hpc, hv, hrem⟩ hr _
  case readRsp0 =>
    obtain ⟨hpc, hv, hrem, _⟩ := hx
    split
    · exact h.continueAt hc ⟨hpc, hv, hrem⟩
    · exact h.responseReturned hc ⟨hpc, hv, hrem⟩ _
  case readRsp1 | readRsp2 => exact h.continueAt hc hx
  case readRsp3 =>
    obtain ⟨hpc, hv, hrem⟩ := hx
    exact h.responseReturned hc ⟨hpc, hv, hrem⟩ _
  case readDsta => exact h.continueAt hc hx
  case readFsta =>
    obtain ⟨hpc, hv, hd, hacc, hal, hmore⟩ := hx
    exact h.afterStatus hc ⟨hpc, hv, hd, hacc, hal⟩ hmore
  case moveWord =>
    obtain ⟨hpc, hv, hd, hacc, hal, hmore⟩ := hx
    exact h.afterMove hc ⟨hpc, hv, hd, hacc, hal⟩ hmore v
  case pollDsta =>
    obtain ⟨hpc, hv, hd, hrem⟩ := hx
    exact h.afterPollDsta hc ⟨hpc, hv, hd, hrem⟩ v
  case clearDone => exact h.continueAt hc hx
  case dataOff =>
    obtain ⟨hpc, hv, hd, hrem⟩ := hx
    exact h.waitReturned hc ⟨hpc, hv, hd, hrem⟩ _
  case clearDcon => exact h.continueAt hc hx.1
  case callIssue | callReadResponse | callTransfer | callWait | finish | returnFailure => exact h

/-! ## Turns of the sequencer -/

theorem afterProbeAccess {binding : Binding} {handle : ClockHandle} {base : Nat} {pos : ProbePos} (h : Inv s)
    (hs : s.session = .probe binding handle base pos) : Inv (Machine.afterProbeAccess binding handle base pos s) := by
  have hpc := h.sessionSound
  simp only [State.sessionSound, hs] at hpc
  cases pos with
  | softwareReset | writeDtimer | writeBsize | writeImsk => exact h.of_sameBlock (sameBlock_setSession _ _) h.bufferWf hpc
  | settle => exact h
  | configure =>
    exact h.of_sameBlock ((sameBlock_setCtrl _ _).trans (sameBlock_endSession _ _)) h.bufferWf hpc

theorem afterAccess (h : Inv s) : Inv (Machine.afterAccess s) := by
  unfold Machine.afterAccess
  split
  · exact h
  · next x hs => exact h.afterExecuteAccess hs _
  · next hs => exact h.afterProbeAccess hs
  · next divider pos hs =>
    have hsound := h.sessionSound
    simp only [State.sessionSound, hs] at hsound
    exact h.of_sameBlock (sameBlock_setSession _ _) h.bufferWf hsound

theorem returnFailure (h : Inv s) (x : ExecRun) : Inv (Machine.returnFailure x s) := by
  unfold Machine.returnFailure
  split
  · exact h.of_sameBlock ((sameBlock_endSession _ _).trans (sameBlock_setPc _ _)) h.bufferWf rfl
  · exact h

theorem silentStep (h : Inv s) : Inv (Machine.silentStep s) := by
  have hsound := h.sessionSound
  unfold Machine.silentStep
  split
  · exact h
  · split
    · exact h.of_sameBlock (sameBlock_returnSuccess _ _) h.bufferWf rfl
    · exact h.returnFailure _
    · exact h
  · next hs =>
    simp only [State.sessionSound, hs] at hsound
    exact h.of_sameBlock (sameBlock_setSession _ _) h.bufferWf hsound
  · exact h
  · next hs =>
    simp only [State.sessionSound, hs] at hsound
    exact h.of_sameBlock ((sameBlock_setCtrl _ _).trans (sameBlock_endSession _ _)) h.bufferWf hsound.1
  · exact h

/-! ## Session operations and the calls of the sub-steps -/

/-- EXECUTE begins with its descriptor validated (R281). -/
theorem beginExecute (h : Inv s) (hc : s.ctrl.isSome = true) {cmd : Command} {data : Option Descriptor} {rem : Nat}
    (hv : (newRun cmd data rem).validated s.config) (hrem : rem = (newRun cmd data rem).total) :
    Inv (Machine.beginExecute cmd data rem s) :=
  h.of_sameBlock (sameBlock_beginExecute cmd data rem s) h.bufferWf ⟨hc, rfl, hv, hrem, rfl⟩

theorem execExecute {cmd : Command} {data : Option Descriptor} (h : Inv s) (hx : Machine.execExecute cmd data s = .next t) :
    Inv t := by
  obtain ⟨⟨_, _, hc⟩, ⟨_, rfl⟩ | ⟨d, _, _, rfl⟩ | ⟨d, _, hcount, hcontract, rfl⟩⟩ := execExecute_next hx
  · exact h.beginExecute hc nofun rfl
  · exact h.of_sameBlock ((sameBlock_setResult _ _).trans ((sameBlock_continueAt _ _ _).trans (sameBlock_setPc _ _)))
      h.bufferWf ⟨hc, _, rfl⟩
  · exact h.beginExecute hc (fun _ hd => Option.some.inj hd ▸ ⟨hcount, hcontract⟩) rfl

theorem execProbe {binding : Binding} (h : Inv s) (hx : Machine.execProbe binding s = .next t) : Inv t := by
  obtain ⟨⟨_, hpc⟩, ⟨r, rfl⟩ | ⟨base, rfl⟩⟩ := execProbe_next hx
  · exact h.endSession hpc _
  · exact (h.setClock _).of_sameBlock (sameBlock_startSession _ _) h.bufferWf hpc

theorem execSetClock {target : Nat} (h : Inv s) (hx : Machine.execSetClock target s = .next t) : Inv t := by
  obtain ⟨⟨_, hpc, hc⟩, ⟨r, rfl⟩ | ⟨hmax, rfl⟩⟩ := execSetClock_next hx
  · exact h.endSession hpc _
  · exact h.of_sameBlock (sameBlock_startSession _ _) h.bufferWf ⟨hpc, hc, hmax⟩

theorem execIssue {cmd : Command} {data : Option Descriptor} (h : Inv s) (hx : Machine.execIssue cmd data s = .next t) :
    Inv t := by
  obtain ⟨x, hs, hp, _, _, rfl⟩ := execIssue_next hx
  obtain ⟨hc, hsound⟩ := h.run_sound hs
  simp only [ExecRun.sound, hp] at hsound
  exact h.continueAt hc hsound

theorem execReadResponse {kind : RspKind} (h : Inv s) (hx : Machine.execReadResponse kind s = .next t) : Inv t := by
  obtain ⟨x, hs, hp, _, hret⟩ := execReadResponse_next hx
  obtain ⟨hc, hsound⟩ := h.run_sound hs
  simp only [ExecRun.sound, hp] at hsound
  obtain ⟨_, rfl⟩ | ⟨_, rfl⟩ := hret
  · obtain ⟨hpc, hv, hrem, _⟩ := hsound
    exact h.responseReturned hc ⟨hpc, hv, hrem⟩ _
  · exact h.continueAt hc hsound

theorem execTransfer {d : Descriptor} (h : Inv s) (hx : Machine.execTransfer d s = .next t) : Inv t := by
  obtain ⟨x, hs, hp, hd, rfl⟩ := execTransfer_next hx
  obtain ⟨hc, hsound⟩ := h.run_sound hs
  simp only [ExecRun.sound, hp] at hsound
  obtain ⟨hpc, hv, _, hsome⟩ := hsound
  exact h.loopHead hc ⟨hpc, hv, hsome, by simp [ExecRun.total, hd], rfl⟩

theorem execWaitCompletion (h : Inv s) (hx : Machine.execWaitCompletion s = .next t) : Inv t := by
  obtain ⟨x, hs, hp, rfl⟩ := execWaitCompletion_next hx
  obtain ⟨hc, hsound⟩ := h.run_sound hs
  simp only [ExecRun.sound, hp] at hsound
  exact h.continueAt hc hsound

/-! ## Every step -/

/-- Every operation keeps the invariant, whoever performs it. -/
theorem exec {i : Instr} (h : Inv s) (hx : Machine.exec i s = .next t) : Inv t := by
  by_cases hi : hostAccess i = true
  · exact h.access (hostAccess_next hi hx)
  by_cases he : i.isEvent = true
  · exact h.event (event_next he hx)
  cases i with
  | execute => exact h.execExecute hx
  | issue => exact h.execIssue hx
  | readResponse => exact h.execReadResponse hx
  | transfer => exact h.execTransfer hx
  | waitCompletion => exact h.execWaitCompletion hx
  | probe => exact h.execProbe hx
  | setClock => exact h.execSetClock hx
  | cardPresent => obtain ⟨⟨_, hpc, _⟩, rfl⟩ := execCardPresent_next hx; exact h.endSession hpc _
  | writeProtected => obtain ⟨⟨_, hpc, _⟩, rfl⟩ := execWriteProtected_next hx; exact h.endSession hpc _
  | _ => simp [hostAccess, he] at hi

theorem takeTurn (h : Inv s) (ht : Machine.takeTurn s = .next t) : Inv t := by
  obtain ⟨i, u, _, hx, rfl⟩ | ⟨i, _, hx⟩ | ⟨_, rfl⟩ := takeTurn_next ht
  · exact (h.exec hx).afterAccess
  · exact h.exec hx
  · exact h.silentStep

theorem step (h : Inv s) (ht : Machine.step s = .next t) : Inv t := by
  obtain ⟨u, hu, hstep⟩ := step_next ht
  have hinv : Inv u := by
    obtain rfl | ⟨rest, rfl⟩ := hu
    · exact h
    · exact h.setAgenda rest
  obtain hturn | ⟨i, _, _, hx⟩ | ⟨c, rfl⟩ | ⟨g, rfl⟩ | ⟨offset, b, _, rfl⟩ := hstep
  · exact hinv.takeTurn hturn
  · exact hinv.exec hx
  · exact hinv.setClock c
  · exact hinv.setGpio g
  · exact hinv.setBuffer (wf_writeByte offset b hinv.bufferWf)

end Inv

/-! ## The configuration (R17) -/

theorem exec_config {i : Instr} {s t : State} (h : exec i s = .next t) : t.config = s.config := by
  obtain ⟨_, ha⟩ | ⟨_, he⟩ | ⟨_, _, hkept⟩ := exec_next h
  · exact ha.sameSequencer.config
  · exact he.sameSequencer.config
  · exact hkept.config

theorem takeTurn_config {s t : State} (h : takeTurn s = .next t) : t.config = s.config := by
  obtain ⟨i, u, _, hx, rfl⟩ | ⟨i, _, hx⟩ | ⟨_, rfl⟩ := takeTurn_next h
  · exact (sameBlock_afterAccess u).config.trans (exec_config hx)
  · exact exec_config hx
  · exact (sameBlock_silentStep s).config

/-- No step changes the configuration (R17), whatever the state. -/
theorem step_config {s t : State} (h : step s = .next t) : t.config = s.config := by
  obtain ⟨u, hu, hstep⟩ := step_next h
  have hsu : u.config = s.config := by obtain rfl | ⟨_, rfl⟩ := hu <;> rfl
  rw [← hsu]
  obtain hturn | ⟨i, _, _, hx⟩ | ⟨c, rfl⟩ | ⟨g, rfl⟩ | ⟨offset, b, _, rfl⟩ := hstep
  · exact takeTurn_config hturn
  · exact exec_config hx
  all_goals rfl

/-- Settles O37: the block's half is kept by the effects of accesses and events, the sequencer's half by where EXECUTE goes
on. -/
theorem everyStepKeepsTheInvariant : Obligations.EveryStepKeepsTheInvariant :=
  fun _ _ h ht => ⟨h.step ht, step_config ht⟩

/-- Settles O36: the registers of the named draw are zero and every engine is idle. -/
theorem resetMeetsTheInvariant : Obligations.ResetMeetsTheInvariant where
  configAdmissible := admissible_reference
  regsFit := by decide
  fifoFits := Nat.zero_le _
  bufferWf := rfl
  imskSound := .inl rfl
  dconSound := rfl
  responsesSound := ⟨rfl, rfl, nofun⟩
  sessionSound := rfl

end Sys2Proof.Machine
end

section
/-! Host accesses by offset (R88, R89): the offsets of an admissible configuration tell the registers apart, and an access
that is no register's decodes to nothing. -/

namespace Sys2Proof.Machine

/-! ## Registers and their offsets (R20, R89) -/

theorem Reg.mem_all (r : Reg) : r ∈ Reg.all := by cases r <;> decide

/-- The listed offsets are those of the registers, in the same order. -/
theorem offsets_toList_eq (o : Config.Offsets) : o.toList = Reg.all.map (Reg.offset o) := rfl

theorem mem_offsets_iff {o : Config.Offsets} {offset : Nat} : offset ∈ o.toList ↔ ∃ r : Reg, r.offset o = offset := by
  simp [offsets_toList_eq, Reg.mem_all]

/-- Offsets that rise tell the registers apart. -/
theorem offset_injective {o : Config.Offsets} (h : o.toList.Pairwise (· < ·)) : Function.Injective (Reg.offset o) := by
  have hnodup : (Reg.all.map (Reg.offset o)).Nodup := h.imp Nat.ne_of_lt
  exact fun r r' heq => List.inj_on_of_nodup_map hnodup (Reg.mem_all r) (Reg.mem_all r') heq

/-- The register found at the offset of a register is that register. -/
theorem ofOffset_offset {o : Config.Offsets} (h : o.toList.Pairwise (· < ·)) (r : Reg) :
    Reg.ofOffset o (r.offset o) = some r := by
  have hfound : (Reg.ofOffset o (r.offset o)).isSome = true := List.find?_isSome.mpr ⟨r, Reg.mem_all r, by simp⟩
  obtain ⟨r', hr'⟩ := Option.isSome_iff_exists.mp hfound
  rw [hr', offset_injective h (offset_of_ofOffset hr')]

/-- The default offsets are the first 17 multiples of 4 (R20). -/
theorem reference_offsets_eq : Config.reference.offsets.toList = (List.range 17).map (4 * ·) := by decide

/-! ## Accesses and what they decode to -/

/-- A 32-bit access at the offset of a register is that register's operation (R110). -/
theorem decodeAccess_offset {c : Config} (hc : Admissible c) (dir : Dir) (r : Reg) (v : Word) :
    decodeAccess c.offsets dir 32 (r.offset c.offsets) v = .ok (decodeRegister dir r v) := by
  have haligned : r.offset c.offsets % 4 = 0 := hc.offsetsAligned _ (mem_offsets_iff.mpr ⟨r, rfl⟩)
  simp [decodeAccess, haligned, ofOffset_offset hc.offsetsRise r]

theorem ofOffset_none {o : Config.Offsets} {offset : Nat} (h : ∀ r : Reg, r.offset o ≠ offset) :
    Reg.ofOffset o offset = none :=
  Option.eq_none_iff_forall_ne_some.mpr fun r hr => h r (offset_of_ofOffset hr)

/-- An access of another width or at another offset is no operation (R88, R89). -/
theorem decodeAccess_error {o : Config.Offsets} {width offset : Nat}
    (h : width ≠ 32 ∨ ∀ r : Reg, r.offset o ≠ offset) (dir : Dir) (v : Word) :
    ∃ why, decodeAccess o dir width offset v = .error why := by
  unfold decodeAccess
  split
  · exact ⟨_, rfl⟩
  · next hwidth =>
    split
    · exact ⟨_, rfl⟩
    · rw [ofOffset_none (h.resolve_left hwidth)]
      exact ⟨_, rfl⟩

/-- A step with an encoded form in front that is no operation refuses it (R15). -/
theorem step_undecodable {s : State} {e : Encoded} {rest : List Slot} {why : DecodeError} (ha : s.agenda = .op e :: rest)
    (hd : decode s.config e = .error why) : step s = .refused (.undecodable why) := by
  rw [step_slot ha]
  simp [runSlot, runEncoded, hd]

/-- Settles O6: the offsets tell the registers apart, and the default ones are a list of multiples of 4. -/
theorem onlyWordAccessesAtRegisterOffsets : Obligations.OnlyWordAccessesAtRegisterOffsets := by
  refine ⟨fun c dir r v hc => decodeAccess_offset hc dir r v, fun dir width offset v rest s hbad ha => ?_,
    fun offset => ?_⟩
  · obtain ⟨why, hwhy⟩ := decodeAccess_error hbad dir v
    exact ⟨why, step_undecodable ha hwhy⟩
  · rw [← mem_offsets_iff, reference_offsets_eq, List.mem_map]
    constructor
    · rintro ⟨k, hk, rfl⟩
      have := List.mem_range.mp hk
      omega
    · rintro ⟨hmod, hle⟩
      exact ⟨offset / 4, List.mem_range.mpr (by omega), by omega⟩

end Sys2Proof.Machine
end

section
/-! Operations in sequence: the status clears (R92, R161, R178, R180) and the FIFO (R83, R87, R240, R241). -/

namespace Sys2Proof.Machine

@[simp] theorem setRegs_setRegs (s : State) (r r' : Regs) : (s.setRegs r).setRegs r' = s.setRegs r' := rfl

@[simp] theorem setFifo_setFifo (s : State) (bs bs' : List Byte) : (s.setFifo bs).setFifo bs' = s.setFifo bs' := rfl

@[simp] theorem setFifo_fifo_self (s : State) : s.setFifo s.fifo = s := rfl

theorem performAll_cons {i : Instr} {rest : List Instr} {s t : State} (h : exec i s = .next t) :
    performAll (i :: rest) s = performAll rest t := by
  simp [performAll, h]

/-! ## Status clears -/

theorem exec_wrCsta (v : Word) (s : State) :
    exec (.wrCsta v) s = .next (s.setRegs { s.regs with csta := clearCsta s.config.layout.csta s.regs.csta v }) := rfl

theorem exec_wrDsta (v : Word) (s : State) :
    exec (.wrDsta v) s = .next (s.setRegs { s.regs with dsta := clearDsta s.config.layout.dsta s.regs.dsta v }) := rfl

theorem exec_wrFsta (v : Word) (s : State) : exec (.wrFsta v) s = .next s := rfl

/-- Clearing a flag a second time changes nothing. -/
@[simp] theorem w1c_w1c (flag bit : Bool) : w1c (w1c flag bit) bit = w1c flag bit := by
  cases bit <;> simp [w1c]

@[simp] theorem clearCsta_clearCsta (l : Config.CstaLayout) (f : CstaFlags) (v : Word) :
    clearCsta l (clearCsta l f v) v = clearCsta l f v := by
  simp [clearCsta]

@[simp] theorem clearDsta_clearDsta (l : Config.DstaLayout) (f : DstaFlags) (v : Word) :
    clearDsta l (clearDsta l f v) v = clearDsta l f v := by
  simp [clearDsta]

/-- Settles O17: write one to clear is idempotent flag by flag, and the all-ones word covers every flag. -/
theorem statusClearsAreIdempotent : Obligations.StatusClearsAreIdempotent := by
  refine ⟨fun v s t h => ?_, fun v s t h => ?_, fun s hc => ?_⟩
  · rw [exec_wrCsta, next_inj] at h
    subst h
    simp [exec_wrCsta]
  · rw [exec_wrDsta, next_inj] at h
    subst h
    simp [exec_wrDsta]
  · have hcsta := clearCsta_covers hc.csta (allOnes_covers _) s.regs.csta
    have hdsta := clearDsta_covers hc.dsta (allOnes_covers _) s.regs.dsta
    rw [performAll_cons (exec_wrCsta _ s), performAll_cons (exec_wrDsta _ _), performAll_cons (exec_wrFsta _ _)]
    simp [performAll, hcsta, hdsta]

/-! ## The FIFO keeps the order of words -/

/-- Words that fit are queued in order, each as its four bytes. -/
theorem performAll_wrDat (ws : List Word) {s : State} (h : s.fifo.length + 4 * ws.length ≤ s.config.fifoDepth) :
    performAll (ws.map Instr.wrDat) s = .next (s.setFifo (s.fifo ++ ws.flatMap bytesOf)) := by
  induction ws generalizing s with
  | nil => simp [performAll]
  | cons w ws ih =>
    rw [List.length_cons] at h
    have hpush : exec (.wrDat w) s = .next (s.setFifo (s.fifo ++ bytesOf w)) := fifoPush_room (by omega)
    rw [List.map_cons, performAll_cons hpush, ih (by simp; omega)]
    simp

/-- Queued words are popped whole and in order, and leave what was queued behind them. -/
theorem popWords_queued (ws : List Word) {rest : List Byte} {s : State} (h : s.fifo = ws.flatMap bytesOf ++ rest) :
    ∃ u, popWords ws.length s = some (ws, u) ∧ u.fifo = rest := by
  induction ws generalizing s with
  | nil => exact ⟨s, rfl, h⟩
  | cons w ws ih =>
    have hpop : exec .rdDat s = .next ((s.setFifo (ws.flatMap bytesOf ++ rest)).setHostWord w) := by
      rw [← wordOfBytes_byteOf w]
      exact fifoPop_cons h
    obtain ⟨u, hu, hrest⟩ := ih (s := (s.setFifo (ws.flatMap bytesOf ++ rest)).setHostWord w) rfl
    exact ⟨u, by simp [popWords, hpop, hu], hrest⟩

/-- Settles O28: the pushes queue the words' bytes, and the pops take them from there. -/
theorem fifoKeepsOrder : Obligations.FifoKeepsOrder := by
  intro ws s hempty hfits
  have hpush := performAll_wrDat ws (s := s) (by simpa [hempty] using hfits)
  obtain ⟨u, hu, hrest⟩ := popWords_queued ws (rest := []) (s := s.setFifo (s.fifo ++ ws.flatMap bytesOf))
    (by simp [hempty])
  exact ⟨_, u, hpush, hu, hrest⟩

end Sys2Proof.Machine
end

section
/-! No step faults (R82, R348): no operation has a fault of its own, and the one stop of the sequencer is a word of TRANSFER
past the buffer, which the accounting of the transfer excludes. -/

namespace Sys2Proof.Machine

open Host

/-! ## No operation faults -/

section

variable {s : State} {why : Fault}

theorem readResponseRegister_ne_fault (r : Option Word) : readResponseRegister r s ≠ .fault why := by
  cases r <;> nofun

theorem configure_ne_fault (c f : Bool) : configure c f s ≠ .fault why := by
  unfold configure
  split
  · split <;> nofun
  · nofun

theorem armCommand_ne_fault (index : BitVec 6) (wait long : Bool) : armCommand index wait long s ≠ .fault why := by
  unfold armCommand
  split <;> nofun

theorem armData_ne_fault (dir : Direction) (blknum : BitVec 11) (widebus : Bool) :
    armData dir blknum widebus s ≠ .fault why := by
  unfold armData
  split
  · split <;> nofun
  · nofun

theorem dataErrorEvent_ne_fault (flags : DstaFlags) (stops : Bool) : dataErrorEvent flags stops s ≠ .fault why := by
  unfold dataErrorEvent
  split <;> nofun

/-- A register access goes on or is refused (R150). -/
theorem hostAccess_ne_fault {i : Instr} (hi : hostAccess i = true) : exec i s ≠ .fault why := by
  cases i with
  | rdCon | rdPre | rdCcon | rdCsta | rdDtimer | rdBsize | rdDcon | rdDcnt | rdDsta | rdFsta | rdCarg | rdImsk => nofun
  | rdRsp0 | rdRsp1 | rdRsp2 | rdRsp3 => exact readResponseRegister_ne_fault _
  | wrRsp0 | wrRsp1 | wrRsp2 | wrRsp3 | wrDcnt | wrFsta | wrCarg | wrCsta | wrDtimer | wrDsta => nofun
  | wrPre | wrBsize | wrImsk | rdDat | wrDat =>
    simp only [exec, execWrPre, execWrBsize, execWrImsk, execRdDat, fifoPop, execWrDat, fifoPush]
    split <;> nofun
  | wrCon v =>
    simp only [exec, execWrCon]
    split
    · nofun
    · exact configure_ne_fault _ _
  | wrCcon v =>
    simp only [exec, execWrCcon]
    split
    · split
      · exact armCommand_ne_fault _ _ _
      · nofun
    · nofun
  | wrDcon v =>
    simp only [exec, execWrDcon]
    split
    · nofun
    · split
      · exact armData_ne_fault _ _ _
      · nofun
  | conReset | cconStore | dataOff => nofun
  | conCfg => exact configure_ne_fault _ _
  | cmdNorsp | cmdShort | cmdLong => exact armCommand_ne_fault _ _ _
  | dataRx | dataTx => exact armData_ne_fault _ _ _
  | _ => cases hi

/-- A device event happens or is refused (R14). -/
theorem event_ne_fault {i : Instr} (hi : i.isEvent = true) : exec i s ≠ .fault why := by
  cases i with
  | evCmdSent | evRspShort | evRspLong | evRspTimeout | evDataFinish =>
    simp only [exec, execEvCmdSent, execEvRspShort, execEvRspLong, execEvRspTimeout, execEvDataFinish]
    split <;> nofun
  | evRxBytes | evTxBytes =>
    simp only [exec, execEvRxBytes, execEvTxBytes]
    split
    · split <;> nofun
    · nofun
  | evCrcFail | evRxcrcFail | evDataTimeout | evFifoFail => exact dataErrorEvent_ne_fault _ _
  | _ => cases hi

/-- A session operation, or the call of a sub-step, starts, answers or is refused (R280). -/
theorem sessionOperation_ne_fault {i : Instr} (hi : hostAccess i = false) (he : i.isEvent = false) :
    exec i s ≠ .fault why := by
  cases i with
  | execute cmd data =>
    simp only [exec, execExecute]
    split
    · nofun
    · split
      · nofun
      · split
        · nofun
        · split <;> nofun
  | probe | setClock =>
    simp only [exec, execProbe, execSetClock]
    split
    · nofun
    · split
      · nofun
      · split <;> nofun
  | cardPresent | writeProtected =>
    simp only [exec, execCardPresent, execWriteProtected]
    split <;> nofun
  | readResponse kind =>
    simp only [exec, execReadResponse]
    split
    · split
      · split <;> nofun
      · nofun
    · nofun
  | issue | transfer | waitCompletion =>
    simp only [exec, execIssue, execTransfer, execWaitCompletion]
    split
    · split <;> nofun
    · nofun
  | _ => simp [hostAccess, he] at hi

/-- The block has no fault of its own (R348). -/
theorem exec_ne_fault (i : Instr) : exec i s ≠ .fault why := by
  cases hi : hostAccess i with
  | true => exact hostAccess_ne_fault hi
  | false =>
    cases he : i.isEvent with
    | true => exact event_ne_fault he
    | false => exact sessionOperation_ne_fault hi he

end

/-! ## The sequencer stops only at a word past the buffer -/

/-- EXECUTE stops only where it would move a word that is not wholly inside the buffer. -/
theorem executeTodo_stop {c : Config} {x : ExecRun} {buffer : Memory} {why : Fault}
    (h : executeTodo c x buffer = .stop why) :
    x.pos = .moveWord ∧ ∃ d, x.data = some d ∧ d.bufferLength < x.off + 4 := by
  unfold executeTodo at h
  cases hp : x.pos <;> simp only [hp] at h
  case moveWord =>
    refine ⟨rfl, ?_⟩
    unfold moveTodo at h
    split at h
    · cases h
    · next d hd =>
      split at h
      · split at h <;> cases h
      · next hpast => exact ⟨d, hd, Nat.lt_of_not_le hpast⟩
  case writeBsize | writeDcon | callTransfer => split at h <;> cases h
  all_goals cases h

/-- While bytes are left, the next word of a transfer lies inside the buffer (R82, R133, R303). -/
theorem ExecRun.InTransfer.word_inside {x : ExecRun} {c : Config} {pc : Phase} {d : Descriptor} (h : x.InTransfer c pc)
    (hmore : 0 < x.rem) (hd : x.data = some d) : x.off + 4 ≤ d.bufferLength := by
  obtain ⟨-, hv, -, hacc, hal⟩ := h
  have htotal := ExecRun.total_aligned hv
  have hlength : d.bufferLength = x.total := by
    obtain ⟨-, hcontract⟩ := hv d hd
    obtain ⟨-, hlen, -⟩ := (contract_iff c x.cmd d).mp hcontract
    rw [hlen, ExecRun.total, hd]
  omega

namespace Inv

variable {s : State} {why : Fault}

theorem todo_ne_stop (h : Inv s) : todo s ≠ .stop why := by
  intro ht
  unfold todo at ht
  split at ht
  · cases ht
  · next x hs =>
    obtain ⟨hp, d, hd, hpast⟩ := executeTodo_stop ht
    obtain ⟨-, hsound⟩ := h.run_sound hs
    simp only [ExecRun.sound, hp] at hsound
    obtain ⟨hpc, hv, hdata, hacc, hal, hmore⟩ := hsound
    have hinside := ExecRun.InTransfer.word_inside ⟨hpc, hv, hdata, hacc, hal⟩ hmore hd
    omega
  · next pos _ => cases pos <;> cases ht
  · next pos _ => cases pos <;> cases ht

theorem takeTurn_ne_fault (h : Inv s) : Machine.takeTurn s ≠ .fault why := by
  unfold Machine.takeTurn
  split
  · next i _ =>
    split
    · nofun
    · next hx => exact absurd hx (exec_ne_fault i)
    · nofun
  · exact exec_ne_fault _
  · nofun
  · next hstop => exact absurd hstop h.todo_ne_stop

end Inv

theorem runEncoded_ne_fault (e : Encoded) {s : State} {why : Fault} : runEncoded e s ≠ .fault why := by
  unfold runEncoded
  split
  · next i _ =>
    unfold runInstr
    split
    · split
      · exact exec_ne_fault i
      · nofun
    · nofun
  · nofun

/-- Settles O38: of the slots of the agenda only a turn can stop, and the invariant keeps it inside the buffer. -/
theorem noStepTouchesABytePastTheBuffer : Obligations.NoStepTouchesABytePastTheBuffer := by
  intro s why h
  cases ha : s.agenda with
  | nil => rw [step_empty ha]; exact h.takeTurn_ne_fault
  | cons slot rest =>
    rw [step_slot ha]
    cases slot with
    | turn => exact (h.setAgenda rest).takeTurn_ne_fault
    | op e => exact runEncoded_ne_fault e
    | clock | gpio => nofun
    | callerWrite offset b => simp only [runSlot, callerWrites]; split <;> nofun

end Sys2Proof.Machine
end

section
/-! Encoding and decoding agree (R110 to R112, R114, R119, R126): what the decoder reads from the word of each control form,
and, where a word has one reading, the form it is the word of. -/

namespace Sys2Proof.Machine

/-! ## CON (R111) -/

theorem bitAt_bitWord {n : Nat} (h : n < 32) (b : Bool) : bitAt (bitWord n b) n = b := by
  have hF : Fits [flag n] := ⟨by simpa [flag] using h, by simp⟩
  rw [bitWord_eq_wordOf, bitAt_wordOf (b := b) hF rfl (by simp)]

/-- The word of CON.CFG is the word of all three fields of CON, with SDRESET = 0. -/
theorem conCfgWord_eq_wordOf (l : Config.ConLayout) (clktype fiforeset : Bool) :
    conCfgWord l clktype fiforeset =
      wordOf [(flag l.sdreset, ofFlag false), (flag l.clktype, ofFlag clktype), (flag l.fiforeset, ofFlag fiforeset)] := by
  simp [conCfgWord, wordOf, Field.put, Field.clip, ofFlag]

theorem decodeCn_reset {l : Config.ConLayout} (h : Fits l.fields) : decodeCn l (bitWord l.sdreset true) = .conReset := by
  have hn : l.sdreset < 32 := flag_inside h (by simp [Config.ConLayout.fields])
  rw [decodeCn, bitAt_bitWord hn, if_pos rfl]

theorem decodeCn_conCfgWord {l : Config.ConLayout} (h : Fits l.fields) (clktype fiforeset : Bool) :
    decodeCn l (conCfgWord l clktype fiforeset) = .conCfg clktype fiforeset := by
  rw [conCfgWord_eq_wordOf, decodeCn, bitAt_wordOf (n := l.sdreset) (b := false) h rfl (by simp),
    bitAt_wordOf (n := l.clktype) (b := clktype) h rfl (by simp),
    bitAt_wordOf (n := l.fiforeset) (b := fiforeset) h rfl (by simp)]
  rfl

/-! ## CCON (R112, R130) -/

/-- The arming operation of a command (R200 to R202): its form is chosen by the response the command expects. -/
def commandArming (cmd : Command) : Instr :=
  match cmd.kind with
  | .none => .cmdNorsp cmd.index
  | .short => .cmdShort cmd.index
  | .long => .cmdLong cmd.index

theorem encode_commandArming (c : Config) (cmd : Command) :
    encode c (commandArming cmd) = .cc (commandWord c.layout.ccon cmd) := by
  obtain ⟨index, argument, kind⟩ := cmd
  cases kind <;> rfl

/-- The fields of a command's word (R120). -/
theorem commandWord_fields {l : Config.CconLayout} (h : Fits l.fields) (cmd : Command) :
    indexOf l (commandWord l cmd) = cmd.index ∧
    bitAt (commandWord l cmd) l.senderhost = true ∧
    bitAt (commandWord l cmd) l.cmdstart = true ∧
    bitAt (commandWord l cmd) l.waitrsp = decide (cmd.kind ≠ .none) ∧
    bitAt (commandWord l cmd) l.longrsp = decide (cmd.kind = .long) :=
  cconFormWord_fields h ..

theorem commandWord_unnamed (l : Config.CconLayout) (cmd : Command) :
    commandWord l cmd &&& ~~~maskOf l.fields = 0#32 := cconFormWord_unnamed ..

theorem commandForm_commandWord {l : Config.CconLayout} (h : Fits l.fields) (cmd : Command) :
    commandForm l (commandWord l cmd) = some (decide (cmd.kind ≠ .none), decide (cmd.kind = .long)) := by
  obtain ⟨-, hs, -, hw, hl⟩ := commandWord_fields h cmd
  rw [commandForm, hs, hw, hl, commandWord_unnamed]
  cases cmd.kind <;> rfl

/-- The command-control word of a command decodes to its arming operation (R120). -/
theorem decodeCc_commandWord {l : Config.CconLayout} (h : Fits l.fields) (cmd : Command) :
    decodeCc l (commandWord l cmd) = .ok (commandArming cmd) := by
  obtain ⟨hi, -, hc, -, -⟩ := commandWord_fields h cmd
  rw [decodeCc, hc, if_pos rfl, commandForm_commandWord h, hi]
  obtain ⟨index, argument, kind⟩ := cmd
  cases kind <;> rfl

theorem decodeCc_store {l : Config.CconLayout} (h : Fits l.fields) (index : BitVec 6) (senderhost waitrsp longrsp : Bool) :
    decodeCc l (cconFormWord l index senderhost false waitrsp longrsp) = .ok (.cconStore index senderhost waitrsp longrsp) := by
  obtain ⟨hi, hs, hc, hw, hl⟩ := cconFormWord_fields h index senderhost false waitrsp longrsp
  rw [decodeCc, hi, hs, hc, hw, hl]
  rfl

/-- WAITRSP and LONGRSP, where LONGRSP implies WAITRSP, are those of a response. -/
theorem exists_kind {waitrsp longrsp : Bool} (h : longrsp = true → waitrsp = true) :
    ∃ kind : RspKind, waitrsp = decide (kind ≠ .none) ∧ longrsp = decide (kind = .long) := by
  cases longrsp with
  | true => exact ⟨.long, h rfl, rfl⟩
  | false =>
    cases waitrsp with
    | true => exact ⟨.short, rfl, rfl⟩
    | false => exact ⟨.none, rfl, rfl⟩

/-- An arming word of one of the three forms is the command-control word of a command. -/
theorem eq_commandWord {l : Config.CconLayout} {w : Word} (hc : bitAt w l.cmdstart = true) {p : Bool × Bool}
    (h : commandForm l w = some p) : ∃ cmd : Command, w = commandWord l cmd := by
  obtain ⟨⟨hunnamed, hs, hresponse⟩, -⟩ := commandForm_some h
  obtain ⟨kind, hwait, hlong⟩ := exists_kind hresponse
  have hw := eq_cconFormWord hunnamed
  rw [hs, hc, hwait, hlong] at hw
  exact ⟨⟨indexOf l w, 0#32, kind⟩, hw⟩

/-- An arming word the decoder accepts is the command-control word of a command, read as that command. -/
theorem decodeCc_arming {l : Config.CconLayout} (hF : Fits l.fields) {w : Word} {i : Instr}
    (hc : bitAt w l.cmdstart = true) (h : decodeCc l w = .ok i) :
    ∃ cmd : Command, w = commandWord l cmd ∧ i = commandArming cmd := by
  cases hform : commandForm l w with
  | none => simp [decodeCc, hc, hform] at h
  | some p =>
    obtain ⟨cmd, rfl⟩ := eq_commandWord hc hform
    rw [decodeCc_commandWord hF] at h
    exact ⟨cmd, rfl, (Except.ok.inj h).symm⟩

/-! ## DCON (R114, R131) -/

/-- The arming operation of a direction (R232, R233). -/
def dataArming (dir : Direction) (blknum : BitVec 11) (widebus : Bool) : Instr :=
  match dir with
  | .rx => .dataRx blknum widebus
  | .tx => .dataTx blknum widebus

theorem encode_dataArming (c : Config) (dir : Direction) (blknum : BitVec 11) (widebus : Bool) :
    encode c (dataArming dir blknum widebus) = .dc (dataFormWord c.layout.dcon dir blknum widebus) := by
  cases dir <;> rfl

/-- The arming word of a direction decodes to its arming operation (R121). -/
theorem decodeDc_dataFormWord {l : Config.DconLayout} (h : Fits l.fields) (dir : Direction) (blknum : BitVec 11)
    (widebus : Bool) : decodeDc l (dataFormWord l dir blknum widebus) = .ok (dataArming dir blknum widebus) := by
  obtain ⟨hb, -, hw, -⟩ := dataFormWord_fields h dir blknum widebus
  rw [decodeDc, if_neg (dataFormWord_ne_zero h dir blknum widebus), dataForm_dataFormWord h, hb, hw]
  cases dir <;> rfl

/-- A data-control word the decoder accepts is zero or an arming word, read as DATA.OFF or as that arming operation. -/
theorem decodeDc_ok {l : Config.DconLayout} (hF : Fits l.fields) {w : Word} {i : Instr} (h : decodeDc l w = .ok i) :
    (w = 0#32 ∧ i = .dataOff) ∨
      ∃ dir blknum widebus, w = dataFormWord l dir blknum widebus ∧ i = dataArming dir blknum widebus := by
  by_cases hz : w = 0#32
  · rw [decodeDc, if_pos hz] at h
    exact .inl ⟨hz, (Except.ok.inj h).symm⟩
  · cases hf : dataForm l w with
    | none => simp [decodeDc, hz, hf] at h
    | some dir =>
      have hw := eq_dataFormWord hF hf
      rw [hw, decodeDc_dataFormWord hF] at h
      exact .inr ⟨dir, _, _, hw, (Except.ok.inj h).symm⟩

/-! ## Register accesses (R88, R89, R110) -/

theorem encode_decodeRegister_write (c : Config) (r : Reg) (v : Word) :
    encode c (decodeRegister .write r v) = encodeAccess c .write r v := by
  cases r <;> rfl

/-- An access the decoder accepts is a 32-bit access at the offset of a register, read as that register's operation. -/
theorem decodeAccess_ok {c : Config} (hc : Admissible c) {dir : Dir} {width offset : Nat} {v : Word} {i : Instr}
    (h : decodeAccess c.offsets dir width offset v = .ok i) :
    ∃ r : Reg, width = 32 ∧ offset = r.offset c.offsets ∧ i = decodeRegister dir r v := by
  by_cases hbad : width ≠ 32 ∨ ∀ r : Reg, r.offset c.offsets ≠ offset
  · obtain ⟨why, hwhy⟩ := decodeAccess_error hbad dir v
    rw [hwhy] at h
    cases h
  · push Not at hbad
    obtain ⟨rfl, r, rfl⟩ := hbad
    rw [decodeAccess_offset hc] at h
    exact ⟨r, rfl, rfl, (Except.ok.inj h).symm⟩

/-! ## Every operation -/

/-- Settles O2: by format; the accesses by their offsets, the control words by their fields. -/
theorem decodeOfEncodeIsTheOperation : Obligations.DecodeOfEncodeIsTheOperation := by
  intro c i hc
  have hcommand (cmd : Command) : decode c (encode c (commandArming cmd)) = .ok (commandArming cmd) := by
    rw [encode_commandArming]; exact decodeCc_commandWord hc.ccon cmd
  have hdata (dir : Direction) (blknum : BitVec 11) (widebus : Bool) :
      decode c (encode c (dataArming dir blknum widebus)) = .ok (dataArming dir blknum widebus) := by
    rw [encode_dataArming]; exact decodeDc_dataFormWord hc.dcon dir blknum widebus
  cases i with
  | conReset => exact congrArg _ (decodeCn_reset hc.con)
  | conCfg clktype fiforeset => exact congrArg _ (decodeCn_conCfgWord hc.con clktype fiforeset)
  | cmdNorsp index => exact hcommand ⟨index, 0#32, .none⟩
  | cmdShort index => exact hcommand ⟨index, 0#32, .short⟩
  | cmdLong index => exact hcommand ⟨index, 0#32, .long⟩
  | cconStore index senderhost waitrsp longrsp => exact decodeCc_store hc.ccon index senderhost waitrsp longrsp
  | dataRx blknum widebus => exact hdata .rx blknum widebus
  | dataTx blknum widebus => exact hdata .tx blknum widebus
  | dataOff => rfl
  | execute | issue | readResponse | transfer | waitCompletion | probe | setClock | cardPresent | writeProtected => rfl
  | evCmdSent | evRspShort | evRspLong | evRspTimeout | evRxBytes | evTxBytes | evDataFinish | evCrcFail | evRxcrcFail
  | evDataTimeout | evFifoFail => rfl
  | _ => exact decodeAccess_offset hc _ _ _

/-- Settles O3: an accepted word is the word of the form it is read as. -/
theorem acceptedWordsHaveOneReading : Obligations.AcceptedWordsHaveOneReading := by
  intro c hc
  refine ⟨fun w i hstart h => ?_, fun w i h => ?_, fun width offset w i h => ?_⟩
  · obtain ⟨cmd, rfl, rfl⟩ := decodeCc_arming hc.ccon hstart h
    exact encode_commandArming c cmd
  · obtain ⟨rfl, rfl⟩ | ⟨dir, blknum, widebus, rfl, rfl⟩ := decodeDc_ok hc.dcon h
    · rfl
    · exact encode_dataArming c dir blknum widebus
  · obtain ⟨r, rfl, rfl, rfl⟩ := decodeAccess_ok hc h
    exact encode_decodeRegister_write c r w

end Sys2Proof.Machine
end

section
/-! Reserved control words (R130, R131): which words the selectors refuse, bit by bit, and that no assembled word is one. -/

namespace Sys2Proof.Machine

/-! ## Unnamed bits -/

/-- The word masked by the complement of its fields is not 0 exactly when a bit outside all of them is set. -/
theorem and_not_maskOf_ne_zero_iff {w : Word} {fs : List Field} :
    w &&& ~~~maskOf fs ≠ 0#32 ↔
      ∃ n < 32, bitAt w n = true ∧ ∀ f ∈ fs, ¬ (f.lo ≤ n ∧ n < f.lo + f.width) := by
  have hbit (n : Nat) (hn : n < 32) : (w &&& ~~~maskOf fs).getLsbD n = true ↔
      bitAt w n = true ∧ ∀ f ∈ fs, ¬ (f.lo ≤ n ∧ n < f.lo + f.width) := by
    rw [BitVec.getLsbD_and, BitVec.getLsbD_not, getLsbD_maskOf fs n hn, bitAt_eq_getLsbD]
    simp [hn]
  constructor
  · intro hne
    by_contra hall
    refine hne (word_ext fun n hn => ?_)
    rw [BitVec.getLsbD_zero, Bool.eq_false_iff]
    exact fun hset => hall ⟨n, hn, (hbit n hn).mp hset⟩
  · rintro ⟨n, hn, hset⟩ hzero
    have := (hbit n hn).mpr hset
    simp [hzero] at this

/-! ## Command-control words (R130) -/

/-- The selector of arming forms refuses exactly the reserved words. -/
theorem commandForm_eq_none_iff {l : Config.CconLayout} {w : Word} :
    commandForm l w = none ↔ (bitAt w l.longrsp = true ∧ bitAt w l.waitrsp = false) ∨ bitAt w l.senderhost = false ∨
      w &&& ~~~maskOf l.fields ≠ 0#32 := by
  simp only [commandForm, ite_eq_right_iff, reduceCtorEq, imp_false, not_and_or, Classical.not_imp, Bool.not_eq_true]
  tauto

theorem exec_wrCcon_reserved {w : Word} {s : State} (hc : bitAt w s.config.layout.ccon.cmdstart = true)
    (h : commandForm s.config.layout.ccon w = none) : exec (.wrCcon w) s = .refused .reservedCommandWord := by
  simp [exec, execWrCcon, hc, h]

theorem decodeCc_reserved {l : Config.CconLayout} {w : Word} (hc : bitAt w l.cmdstart = true)
    (h : commandForm l w = none) : decodeCc l w = .error .reservedCommandWord := by
  simp [decodeCc, hc, h]

/-- The unnamed bits of CCON in the default layout. -/
theorem reference_ccon_unnamed_iff {n : Nat} :
    (∀ f ∈ Config.reference.layout.ccon.fields, ¬ (f.lo ≤ n ∧ n < f.lo + f.width)) ↔ n = 7 ∨ 11 ≤ n := by
  simp only [Config.reference, Config.CconLayout.fields, Config.CconLayout.stored, Config.CconLayout.indexField,
    Config.indexWidth, flag, List.forall_mem_cons, List.not_mem_nil, false_imp_iff, implies_true, and_true]
  omega

/-- Settles O4: a reserved word is one the selector of arming forms refuses, and the fields of a command's word are none. -/
theorem reservedCommandWordsAreRefused : Obligations.ReservedCommandWordsAreRefused := by
  refine ⟨fun w s hc hreserved => ?_, fun c cmd hadm => ?_, rfl, fun w => ?_⟩
  · have hnone := commandForm_eq_none_iff.mpr hreserved
    exact ⟨exec_wrCcon_reserved hc hnone, decodeCc_reserved hc hnone⟩
  · obtain ⟨-, hs, hc, hw, hl⟩ := commandWord_fields hadm.ccon cmd
    refine ⟨hc, hs, fun hlong => hw.trans ?_, commandWord_unnamed _ cmd⟩
    have hkind : cmd.kind = .long := of_decide_eq_true (hl.symm.trans hlong)
    rw [hkind]
    rfl
  · simp only [and_not_maskOf_ne_zero_iff, reference_ccon_unnamed_iff]
    constructor
    · rintro ⟨n, hn, hset, rfl | hge⟩
      · exact .inl hset
      · exact .inr ⟨n, hge, by omega, hset⟩
    · rintro (hset | ⟨n, hge, hle, hset⟩)
      · exact ⟨7, by decide, hset, .inl rfl⟩
      · exact ⟨n, by omega, hset, .inr hge⟩

/-! ## Data-control words (R131) -/

theorem exec_wrDcon_reserved {w : Word} {s : State} (hz : w ≠ 0#32) (h : dataForm s.config.layout.dcon w = none) :
    exec (.wrDcon w) s = .refused .reservedDataWord := by
  simp [exec, execWrDcon, hz, h]

theorem decodeDc_reserved {l : Config.DconLayout} {w : Word} (hz : w ≠ 0#32) (h : dataForm l w = none) :
    decodeDc l w = .error .reservedDataWord := by
  simp [decodeDc, hz, h]

theorem armData_noBlock (dir : Direction) (widebus : Bool) (s : State) :
    armData dir 0#11 widebus s = .refused .dataArmRefused := by
  unfold armData
  split
  · rw [if_pos (.inl rfl)]
  · rfl

/-- The value of DATMODE that starts a direction (R114). -/
def startMode (l : Config.DconLayout) (dir : Direction) : Word :=
  match dir with
  | .rx => l.rxStart
  | .tx => l.txStart

/-- DATMODE and DATASIZE of an arming word are the configured values. -/
theorem dataFormWord_values {c : Config} (hc : Admissible c) (dir : Direction) (blknum : BitVec 11) (widebus : Bool) :
    let l := c.layout.dcon
    l.modeOf (dataFormWord l dir blknum widebus) = startMode l dir ∧
      l.datasize.get (dataFormWord l dir blknum widebus) = l.wordSize := by
  obtain ⟨hrx, htx, hsize⟩ := hc.dataValues
  cases dir with
  | rx =>
    obtain ⟨-, hm, -, -, -, -, -, hd⟩ := dconFieldsWord_fields hc.dcon blknum c.layout.dcon.rxStart c.layout.dcon.wordSize
      true widebus true true false
    exact ⟨hm.trans hrx, hd.trans hsize⟩
  | tx =>
    obtain ⟨-, hm, -, -, -, -, -, hd⟩ := dconFieldsWord_fields hc.dcon blknum c.layout.dcon.txStart c.layout.dcon.wordSize
      true widebus true false true
    exact ⟨hm.trans htx, hd.trans hsize⟩

/-- A data-control word assembled from its fields has no unnamed bit set. -/
theorem dataFormWord_unnamed (l : Config.DconLayout) (dir : Direction) (blknum : BitVec 11) (widebus : Bool) :
    dataFormWord l dir blknum widebus &&& ~~~maskOf l.fields = 0#32 := by
  cases dir <;> exact wordOf_unnamed _

/-- A word with the bits of a form under the mask is of that form. -/
theorem dataForm_of_masked {l : Config.DconLayout} (hF : Fits l.fields) {w : Word} {dir : Direction}
    (h : w &&& dconFormMask l = dataFormWord l dir 0#11 false) : dataForm l w = some dir := by
  have hform := dataForm_dataFormWord hF dir 0#11 false
  rw [dataForm, dataFormWord_under_mask hF] at hform
  rw [dataForm, h, hform]

theorem ne_zero_of_dataForm {l : Config.DconLayout} (hF : Fits l.fields) {w : Word} {dir : Direction}
    (h : dataForm l w = some dir) : w ≠ 0#32 := by
  rw [eq_dataFormWord hF h]
  exact dataFormWord_ne_zero hF _ _ _

theorem exec_wrDcon_arming {w : Word} {s : State} {dir : Direction} (hF : Fits s.config.layout.dcon.fields)
    (h : dataForm s.config.layout.dcon w = some dir) :
    exec (.wrDcon w) s = armData dir (blknumOf s.config.layout.dcon w) (bitAt w s.config.layout.dcon.widebus) s := by
  simp [exec, execWrDcon, ne_zero_of_dataForm hF h, h]

/-- The words R131 lists, in the terms of the fields. -/
def ListedReserved (l : Config.DconLayout) (w : Word) : Prop :=
  bitAt w l.datstart = false ∨ (l.modeOf w ≠ l.rxStart ∧ l.modeOf w ≠ l.txStart) ∨
    l.datasize.get w ≠ l.wordSize ∨ bitAt w l.blockmode = false ∨
    (bitAt w l.racmd = true ∧ bitAt w l.tarsp = true) ∨ (l.modeOf w ≠ l.txStart ∧ bitAt w l.tarsp = true) ∨
    (l.modeOf w ≠ l.rxStart ∧ bitAt w l.racmd = true) ∨ w &&& ~~~maskOf l.fields ≠ 0#32

/-- No arming word is among the listed ones: each clause denies a field of the arming word. -/
theorem not_listedReserved_dataFormWord {c : Config} (hc : Admissible c) (dir : Direction) (blknum : BitVec 11)
    (widebus : Bool) : ¬ ListedReserved c.layout.dcon (dataFormWord c.layout.dcon dir blknum widebus) := by
  obtain ⟨-, hstart, -, hblock, hracmd, htarsp⟩ := dataFormWord_fields hc.dcon dir blknum widebus
  obtain ⟨hmode, hsize⟩ := dataFormWord_values hc dir blknum widebus
  have hunnamed := dataFormWord_unnamed c.layout.dcon dir blknum widebus
  cases dir <;> simp [ListedReserved, hstart, hblock, hracmd, htarsp, hmode, hsize, hunnamed, startMode]

theorem dataForm_of_listedReserved {c : Config} (hc : Admissible c) {w : Word} (h : ListedReserved c.layout.dcon w) :
    dataForm c.layout.dcon w = none := by
  cases hform : dataForm c.layout.dcon w with
  | none => rfl
  | some dir =>
    rw [eq_dataFormWord hc.dcon hform] at h
    exact absurd h (not_listedReserved_dataFormWord hc _ _ _)

/-- Settles O5: a reserved word is of neither form, and a form's word with BLKNUM = 0 is refused by the arming itself. -/
theorem reservedDataWordsAreRefused : Obligations.ReservedDataWordsAreRefused := by
  refine ⟨fun w s hz hrx htx => ?_, fun w s hc hz hlisted => ?_, fun w dir s hc hform hblocks => ?_, rfl, by decide,
    by decide, by decide⟩
  · have hnone : dataForm s.config.layout.dcon w = none := by rw [dataForm, if_neg hrx, if_neg htx]
    exact ⟨exec_wrDcon_reserved hz hnone, decodeDc_reserved hz hnone⟩
  · exact exec_wrDcon_reserved hz (dataForm_of_listedReserved hc hlisted)
  · rw [exec_wrDcon_arming hc.dcon (dataForm_of_masked hc.dcon hform), hblocks, armData_noBlock]

end Sys2Proof.Machine
end

section
/-! The control words the sequencer assembles (R120, R121), and words written out from the tables of the spec. -/

namespace Sys2Proof.Machine

/-! ## Bits of a word from its fields -/

/-- A bit of a field's value is a bit of the word. -/
theorem bitAt_field {f : Field} {k : Nat} (hk : k < f.width) (w : Word) : bitAt w (f.lo + k) = (f.get w).getLsbD k := by
  simp [getLsbD_get, hk, bitAt_eq_getLsbD]

theorem bitAt_index {l : Config.CconLayout} {k : Nat} (hk : k < 6) (w : Word) :
    bitAt w (l.index + k) = (indexOf l w).getLsbD k := by
  rw [indexOf, BitVec.getLsbD_setWidth, ← bitAt_field (f := l.indexField) hk, decide_eq_true hk, Bool.true_and]
  rfl

theorem bitAt_blknum {l : Config.DconLayout} {k : Nat} (hk : k < 11) (w : Word) :
    bitAt w (l.blknum + k) = (blknumOf l w).getLsbD k := by
  rw [blknumOf, BitVec.getLsbD_setWidth, ← bitAt_field (f := l.blknumField) hk, decide_eq_true hk, Bool.true_and]
  rfl

/-- A bit of DATMODE's low part is a bit of the word. -/
theorem bitAt_datmode {l : Config.DconLayout} {k : Nat} (hk : k < l.datmode.width) (hk32 : k < 32) (w : Word) :
    bitAt w (l.datmode.lo + k) = (l.modeOf w).getLsbD k := by
  rw [getLsbD_modeOf l w k hk32, if_pos hk, bitAt_field hk]

/-- An unnamed bit of a word without unnamed bits is 0. -/
theorem bitAt_unnamed {w : Word} {fs : List Field} (h : w &&& ~~~maskOf fs = 0#32) {n : Nat} (hn : n < 32)
    (hno : ∀ f ∈ fs, ¬ (f.lo ≤ n ∧ n < f.lo + f.width)) : bitAt w n = false :=
  Bool.eq_false_iff.mpr fun hset => and_not_maskOf_ne_zero_iff.mpr ⟨n, hn, hset, hno⟩ h

/-! ## The default layout (R120, R121) -/

theorem bitAt_commandWord_reference (cmd : Command) {n : Nat} (hn : n < 32) :
    bitAt (commandWord Config.reference.layout.ccon cmd) n =
      if n < 6 then cmd.index.getLsbD n
      else if n = 6 ∨ n = 8 then true
      else if n = 9 then decide (cmd.kind ≠ .none)
      else if n = 10 then decide (cmd.kind = .long)
      else false := by
  obtain ⟨hindex, hs, hc, hw, hl⟩ := commandWord_fields admissible_reference.ccon cmd
  have hunnamed := commandWord_unnamed Config.reference.layout.ccon cmd
  split_ifs with h0 h1 h2 h3
  · rw [← hindex, ← bitAt_index h0]
    exact congrArg _ (Nat.zero_add n).symm
  · obtain rfl | rfl := h1
    · exact hs
    · exact hc
  · subst h2; exact hw
  · subst h3; exact hl
  · exact bitAt_unnamed hunnamed hn (reference_ccon_unnamed_iff.mpr (by omega))

/-- The unnamed bits of DCON in the default layout. -/
theorem reference_dcon_unnamed_iff {n : Nat} :
    (∀ f ∈ Config.reference.layout.dcon.fields, ¬ (f.lo ≤ n ∧ n < f.lo + f.width)) ↔
      n = 11 ∨ n = 15 ∨ n = 18 ∨ n = 21 ∨ 24 ≤ n := by
  simp only [Config.reference, Config.DconLayout.fields, Config.DconLayout.stored, Config.DconLayout.blknumField,
    Config.blknumWidth, flag, List.forall_mem_cons, List.not_mem_nil, false_imp_iff, implies_true, and_true]
  omega

theorem bitAt_dataFormWord_reference (dir : Direction) (blknum : BitVec 11) (widebus : Bool) {n : Nat} (hn : n < 32) :
    bitAt (dataFormWord Config.reference.layout.dcon dir blknum widebus) n =
      if n < 11 then blknum.getLsbD n
      else if n = 17 ∨ n = 23 ∨ n = 14 then true
      else if n = 16 then widebus
      else if n = 19 then decide (dir = .rx)
      else if n = 13 then true
      else if n = 20 ∨ n = 12 then decide (dir = .tx)
      else false := by
  obtain ⟨hblocks, hstart, hwide, hblock, hracmd, htarsp⟩ :=
    dataFormWord_fields admissible_reference.dcon dir blknum widebus
  obtain ⟨hmode, hsize⟩ := dataFormWord_values admissible_reference dir blknum widebus
  have hunnamed := dataFormWord_unnamed Config.reference.layout.dcon dir blknum widebus
  have hblknumBit {k : Nat} (hk : k < 11) := (bitAt_blknum hk _).trans (congrArg (BitVec.getLsbD · k) hblocks)
  have hmodeBit {k : Nat} (hk : k < 2) := (bitAt_datmode (l := Config.reference.layout.dcon) hk (by omega) _).trans
    (congrArg (BitVec.getLsbD · k) hmode)
  have hsizeBit {k : Nat} (hk : k < 2) := (bitAt_field (f := Config.reference.layout.dcon.datasize) hk _).trans
    (congrArg (BitVec.getLsbD · k) hsize)
  split_ifs with h0 h1 h2 h3 h4 h5
  · exact (congrArg _ (Nat.zero_add n).symm).trans (hblknumBit h0)
  · obtain rfl | rfl | rfl := h1
    · exact hblock
    · exact hsizeBit (k := 1) (by decide)
    · exact hstart
  · subst h2; exact hwide
  · subst h3; exact hracmd
  · subst h4; exact (hmodeBit (k := 1) (by decide)).trans (by cases dir <;> rfl)
  · obtain rfl | rfl := h5
    · exact htarsp
    · exact (hmodeBit (k := 0) (by decide)).trans (by cases dir <;> rfl)
  · by_cases h22 : n = 22
    · subst h22; exact hsizeBit (k := 0) (by decide)
    · exact bitAt_unnamed hunnamed hn (reference_dcon_unnamed_iff.mpr (by omega))

/-- Settles O8: the fields of the two words are those of their forms, and each word decodes to its arming operation. -/
theorem controlWordAssembly : Obligations.ControlWordAssembly := by
  refine ⟨fun cmd n hn => bitAt_commandWord_reference cmd hn, fun c cmd hc => ?_, fun d _ n hn => ?_, fun c d hc _ => ?_⟩
  · refine (decodeCc_commandWord hc.ccon cmd).trans ?_
    obtain ⟨index, argument, kind⟩ := cmd
    cases kind <;> rfl
  · rw [dataControlWord, bitAt_dataFormWord_reference _ _ _ hn, BitVec.getLsbD_ofNat]
    split_ifs with h0 <;> simp [h0]
  · refine (decodeDc_dataFormWord hc.dcon _ _ _).trans ?_
    obtain ⟨direction, _, _, _, _⟩ := d
    cases direction <;> rfl

/-- Settles O1: each word of the tables, decoded. -/
theorem spelledOutWordsDecode : Obligations.SpelledOutWordsDecode := by
  unfold Obligations.SpelledOutWordsDecode
  decide

end Sys2Proof.Machine
end

section
/-! Reads of registers (R150, R151, R154, R156, R158, R160, R162 to R166, R168, R170, R172, R175, R177, R179, R181): what the
fields of the word read are, and which of its bits are drawn. -/

namespace Sys2Proof.Machine

/-! ## Words read with a draw -/

/-- Fields that fit still fit when one of them is left out. -/
theorem Fits.tail {f : Field} {fs : List Field} (h : Fits (f :: fs)) : Fits fs :=
  ⟨fun g hg => h.inside g (List.mem_cons_of_mem f hg), h.apart.of_cons⟩

/-- A named field of a word read is the field of the named word. -/
theorem get_read {fs : List Field} (h : Fits fs) {f : Field} (hm : f ∈ fs) (a d : Word) :
    f.get (mergeDraw (maskOf fs) a d) = f.get a := get_mergeDraw hm (h.inside f hm) a d

/-- The value of a register with one field, as it is read (R154, R168, R170). -/
theorem get_read_put {f : Field} (h : Fits [f]) (v d : Word) : f.get (mergeDraw f.mask (f.put v) d) = f.clip v := by
  have hm : f ∈ [f] := List.mem_singleton_self f
  rw [mask_eq_maskOf, get_read h hm, get_put (h.inside f hm)]

/-! ## CON, CCON and DCON -/

/-- The named bits of CON are the word of CON.CFG without a FIFO reset. -/
theorem conWord_eq_conCfgWord (l : Config.ConLayout) (r : Regs) : conWord l r = conCfgWord l r.clktype false := by
  simp [conWord, bitWord_eq_wordOf, conCfgWord, wordOf, Field.put, Field.clip, ofFlag]

/-- The bits of a word read from CON (R151). -/
theorem con_read_bits {l : Config.ConLayout} (h : Fits l.fields) (r : Regs) (d : Word) :
    bitAt (mergeDraw (maskOf l.fields) (conWord l r) d) l.clktype = r.clktype ∧
    bitAt (mergeDraw (maskOf l.fields) (conWord l r) d) l.sdreset = false ∧
    bitAt (mergeDraw (maskOf l.fields) (conWord l r) d) l.fiforeset = false := by
  rw [conWord_eq_conCfgWord, conCfgWord_eq_wordOf]
  refine ⟨(bitAt_read h ?_ ..).trans (bitAt_wordOf h rfl ?_), (bitAt_read h ?_ ..).trans (bitAt_wordOf h rfl ?_),
    (bitAt_read h ?_ ..).trans (bitAt_wordOf h rfl ?_)⟩ <;> simp [Config.ConLayout.fields]

/-- The fields of a word read from CCON (R158). -/
theorem ccon_read_fields {l : Config.CconLayout} (h : Fits l.fields) (f : CconFields) (d : Word) :
    indexOf l (mergeDraw (maskOf l.stored) (cconWord l f) d) = f.index ∧
    bitAt (mergeDraw (maskOf l.stored) (cconWord l f) d) l.senderhost = f.senderhost ∧
    bitAt (mergeDraw (maskOf l.stored) (cconWord l f) d) l.waitrsp = f.waitrsp ∧
    bitAt (mergeDraw (maskOf l.stored) (cconWord l f) d) l.longrsp = f.longrsp := by
  obtain ⟨hindex, hsenderhost, -, hwaitrsp, hlongrsp⟩ :=
    cconFormWord_fields h f.index f.senderhost false f.waitrsp f.longrsp
  have hstored : Fits l.stored := h.tail
  refine ⟨?_, (bitAt_read hstored ?_ ..).trans hsenderhost, (bitAt_read hstored ?_ ..).trans hwaitrsp,
    (bitAt_read hstored ?_ ..).trans hlongrsp⟩
  · rw [indexOf, get_read hstored (List.mem_cons_self ..)]
    exact hindex
  all_goals simp [Config.CconLayout.stored]

/-- The fields of a word read from DCON (R172). -/
theorem dcon_read_fields {l : Config.DconLayout} (h : Fits l.fields) (f : DconFields) (d : Word) :
    blknumOf l (mergeDraw (maskOf l.stored) (dconWord l f) d) = f.blknum ∧
    l.modeOf (mergeDraw (maskOf l.stored) (dconWord l f) d) = l.datmodeValue.clip f.datmode ∧
    bitAt (mergeDraw (maskOf l.stored) (dconWord l f) d) l.widebus = f.widebus ∧
    bitAt (mergeDraw (maskOf l.stored) (dconWord l f) d) l.blockmode = f.blockmode ∧
    bitAt (mergeDraw (maskOf l.stored) (dconWord l f) d) l.racmd = f.racmd ∧
    bitAt (mergeDraw (maskOf l.stored) (dconWord l f) d) l.tarsp = f.tarsp ∧
    l.datasize.get (mergeDraw (maskOf l.stored) (dconWord l f) d) = l.datasize.clip f.datasize := by
  obtain ⟨hblknum, hmode, -, hwidebus, hblockmode, hracmd, htarsp, hdatasize⟩ :=
    dconFieldsWord_fields h f.blknum f.datmode f.datasize false f.widebus f.blockmode f.racmd f.tarsp
  have hstored : Fits l.stored := h.tail
  refine ⟨?_, (modeOf_congr (get_read hstored ?_ ..) (get_read hstored ?_ ..)).trans hmode,
    (bitAt_read hstored ?_ ..).trans hwidebus, (bitAt_read hstored ?_ ..).trans hblockmode,
    (bitAt_read hstored ?_ ..).trans hracmd, (bitAt_read hstored ?_ ..).trans htarsp,
    (get_read hstored ?_ ..).trans hdatasize⟩
  · rw [blknumOf, get_read hstored (List.mem_cons_self ..)]
    exact hblknum
  all_goals simp [Config.DconLayout.stored]

/-- Settles O12: register by register, the fields of the named word under its mask; the register values fit their fields. -/
theorem configurationRegistersRead : Obligations.ConfigurationRegistersRead := by
  intro s hc hfit
  obtain ⟨hdiv, hdtimer, hbsize, hdatmode, hdatasize⟩ := Regs.clip_eq_iff.mp hfit
  have hdrawn (mask named : Word) := mergeDraw_and_not_mask mask named (Config.freeWord s.draws)
  refine ⟨⟨_, rfl, ?con⟩, ⟨_, rfl, ?pre⟩, ⟨_, rfl, ?dtimer⟩, ⟨_, rfl, ?bsize⟩, ⟨_, rfl, ?ccon⟩, ⟨_, rfl, ?dcon⟩⟩
  case con =>
    obtain ⟨hclktype, hsdreset, hfiforeset⟩ := con_read_bits hc.con s.regs (Config.freeWord s.draws)
    exact ⟨hclktype, hsdreset, hfiforeset, hdrawn _ _⟩
  case pre => exact ⟨(get_read_put hc.pre _ _).trans hdiv, hdrawn _ _⟩
  case dtimer => exact ⟨(get_read_put hc.dtimer _ _).trans hdtimer, hdrawn _ _⟩
  case bsize => exact ⟨(get_read_put hc.bsize _ _).trans hbsize, hdrawn _ _⟩
  case ccon =>
    obtain ⟨hindex, hsenderhost, hwaitrsp, hlongrsp⟩ := ccon_read_fields hc.ccon s.regs.ccon (Config.freeWord s.draws)
    exact ⟨hindex, hsenderhost, hwaitrsp, hlongrsp, hdrawn _ _⟩
  case dcon =>
    obtain ⟨hblknum, hmode, hwidebus, hblockmode, hracmd, htarsp, hsize⟩ :=
      dcon_read_fields hc.dcon s.regs.dcon (Config.freeWord s.draws)
    exact ⟨hblknum, hmode.trans hdatmode, hwidebus, hblockmode, hracmd, htarsp, hsize.trans hdatasize, hdrawn _ _⟩

/-! ## The status registers -/

theorem cmdon_eq_decide (ce : CmdEngine) : cmdon ce = decide (ce ≠ .idle) := by cases ce <;> rfl

/-- A read with no named bit returns the draw (R166, R175). -/
theorem readWithDraw_nothing_named (s : State) :
    readWithDraw 0#32 0#32 s = .next ((s.setHostWord (Config.freeWord s.draws)).setDraws (s.draws + 1)) := by
  rw [readWithDraw, mergeDraw_nothing_named]

/-- Settles O13: the flags of the named word are those of the moment, and DCNT names no bit. -/
theorem statusRegistersRead : Obligations.StatusRegistersRead := by
  intro s hc
  have hdrawn (mask named : Word) := mergeDraw_and_not_mask mask named (Config.freeWord s.draws)
  refine ⟨⟨_, rfl, ?csta⟩, ⟨_, rfl, ?dsta⟩, ⟨_, rfl, ?fsta⟩, readWithDraw_nothing_named s⟩
  case csta =>
    obtain ⟨hcmdon, hrspfin, hcmdtimeout, hcmdsent⟩ :=
      csta_read_bits hc.csta s.ce s.regs.csta (Config.freeWord s.draws)
    exact ⟨hcmdon.trans (cmdon_eq_decide s.ce), hrspfin, hcmdtimeout, hcmdsent, hdrawn _ _⟩
  case dsta =>
    obtain ⟨hxferfinish, hdatatimeout, hrxcrcfail, hcrcfail, hfifofail⟩ :=
      dsta_read_bits hc.dsta s.regs.dsta (Config.freeWord s.draws)
    exact ⟨hxferfinish, hdatatimeout, hrxcrcfail, hcrcfail, hfifofail, hdrawn _ _⟩
  case fsta => exact ⟨countOf_fsta_read hc s.fifo _, tfhalf_fsta_read hc s.fifo _, hdrawn _ _⟩

/-! ## Registers that are whole words -/

theorem readResponseRegister_some {r : Option Word} {w : Word} (h : r = some w) (s : State) :
    readResponseRegister r s = .next (s.setHostWord w) := by rw [h]; rfl

theorem readResponseRegister_none {r : Option Word} (h : r = none) (s : State) :
    readResponseRegister r s = .next ((s.setHostWord (Config.freeWord s.draws)).setDraws (s.draws + 1)) := by
  rw [h]; exact readWithDraw_nothing_named s

/-- Settles O14: CARG and IMSK are read whole, and a response register answers by whether it holds a word. -/
theorem wordRegistersRead : Obligations.WordRegistersRead := by
  intro s
  refine ⟨rfl, rfl, fun w => ⟨(readResponseRegister_some · s), (readResponseRegister_some · s),
    (readResponseRegister_some · s), (readResponseRegister_some · s)⟩, fun i hi => ?_⟩
  obtain ⟨rfl, h⟩ | ⟨rfl, h⟩ | ⟨rfl, h⟩ | ⟨rfl, h⟩ := hi
  all_goals exact readResponseRegister_none h s

end Sys2Proof.Machine
end

section
/-! Writes of registers (R152, R153, R155, R157, R159, R161, R167, R169, R171, R173, R176, R178, R180, R182): the conditions
under which a write stores or is refused, and the writes of control words as their forms. -/

namespace Sys2Proof.Machine

/-! ## Control words (R111, R112, R114) -/

/-- A write of CON is its form (R111, R152, R153). -/
theorem exec_wrCon_eq_decodeCn (w : Word) (s : State) : exec (.wrCon w) s = exec (decodeCn s.config.layout.con w) s := by
  simp only [exec, execWrCon, decodeCn]
  split <;> rfl

/-- A write of a word that arms a command, of one of the three forms (R200 to R202). -/
theorem exec_wrCcon_arming {w : Word} {s : State} {wait long : Bool} (hc : bitAt w s.config.layout.ccon.cmdstart = true)
    (h : commandForm s.config.layout.ccon w = some (wait, long)) :
    exec (.wrCcon w) s = armCommand (indexOf s.config.layout.ccon w) wait long s := by
  simp [exec, execWrCcon, hc, h]

/-- A command form with LONGRSP has WAITRSP (R130). -/
theorem commandForm_long {l : Config.CconLayout} {w : Word} {wait : Bool} (h : commandForm l w = some (wait, true)) :
    wait = true := by
  obtain ⟨⟨-, -, hresponse⟩, hp⟩ := commandForm_some h
  obtain ⟨rfl, hlong⟩ := Prod.mk.inj hp
  exact hresponse hlong.symm

/-- A write of CCON is the form its word decodes to (R112, R159). -/
theorem exec_wrCcon_eq_of_decodeCc {w : Word} {i : Instr} {s : State} (h : decodeCc s.config.layout.ccon w = .ok i) :
    exec (.wrCcon w) s = exec i s := by
  unfold decodeCc at h
  split at h
  · next hc =>
    split at h
    · cases h
    · next wait hform =>
      cases h
      obtain rfl := commandForm_long hform
      exact exec_wrCcon_arming hc hform
    all_goals
      next hform =>
      cases h
      exact exec_wrCcon_arming hc hform
  · next hc =>
    cases h
    simp [exec, execWrCcon, execCconStore, hc]

/-- A write of DCON is the form its word decodes to (R114, R173). -/
theorem exec_wrDcon_eq_of_decodeDc {w : Word} {i : Instr} {s : State} (h : decodeDc s.config.layout.dcon w = .ok i) :
    exec (.wrDcon w) s = exec i s := by
  unfold decodeDc at h
  split at h
  · next hz => cases h; rw [hz]; exact exec_wrDcon_zero s
  · next hz =>
    split at h
    · cases h
    all_goals
      next hform =>
      cases h
      simp [exec, execWrDcon, execDataRx, execDataTx, hz, hform]

/-- Settles O7: format by format, along the branches of the decoder. -/
theorem controlWordWritesAreTheirForms : Obligations.ControlWordWritesAreTheirForms := by
  refine ⟨fun w i s h => ?_, fun w i s h => exec_wrCcon_eq_of_decodeCc h, fun w i s h => exec_wrDcon_eq_of_decodeDc h⟩
  obtain rfl : decodeCn s.config.layout.con w = i := Except.ok.inj h
  exact exec_wrCon_eq_decodeCn w s

/-! ## Operand registers -/

/-- PRE takes a write while the engines are quiet (R155). -/
theorem execWrPre_quiet {s : State} (h : EnginesQuiet s) (v : Word) :
    execWrPre v s = .next (s.setRegs { s.regs with div := s.config.layout.pre.get v }) := by
  obtain ⟨hce, hde⟩ := h
  unfold execWrPre
  split
  · next hactive => exact absurd hactive (hde _ _)
  · rfl
  · next hbusy _ => exact absurd hce hbusy

/-- PRE refuses a write while they are not (R155). -/
theorem execWrPre_busy {s : State} (h : ¬ EnginesQuiet s) (v : Word) : execWrPre v s = .refused .prescalerInUse := by
  unfold execWrPre
  split
  · rfl
  · next hce hde => exact absurd ⟨hce, hde⟩ h
  · rfl

/-- Settles O15: stores, and for PRE, BSIZE and IMSK the conditions of their rules. -/
theorem operandRegistersStore : Obligations.OperandRegistersStore := by
  refine fun v s => ⟨rfl, rfl, (execWrPre_quiet · v), (execWrPre_busy · v), ?bsize, ?bsizeInUse, ?imsk, ?imskRefused⟩
  case bsize => rintro (h | h | h) <;> simp [exec, execWrBsize, State.updateRegs, h]
  case bsizeInUse => rintro dir n (h | h) <;> simp [exec, execWrBsize, h]
  case imsk => rintro rfl; rfl
  case imskRefused => exact fun h => if_neg h

/-! ## Status registers -/

theorem w1c_eq_ite (flag bit : Bool) : w1c flag bit = if bit then false else flag := by cases bit <;> simp [w1c]

/-- Settles O16: write one to clear, flag by flag. -/
theorem statusWritesClearWrittenFlags : Obligations.StatusWritesClearWrittenFlags := by
  refine fun v s => ⟨⟨_, exec_wrCsta v s, ?_, ?_, ?_⟩, ⟨_, exec_wrDsta v s, ?_, ?_, ?_, ?_, ?_⟩⟩
  all_goals exact w1c_eq_ite _ _

/-! ## Writes that are ignored -/

/-- Settles O18: each of the six writes is `ignoredWrite`, and the keys are the default offsets. -/
theorem readOnlyRegistersIgnoreWrites : Obligations.ReadOnlyRegistersIgnoreWrites :=
  fun _ _ => ⟨⟨rfl, rfl, rfl, rfl, rfl, rfl⟩, rfl, rfl, rfl, rfl, rfl, rfl⟩

/-! ## CON -/

/-- A CON word with SDRESET set is the software reset, whatever its other bits (R153). -/
theorem exec_wrCon_reset {v : Word} {s : State} (h : bitAt v s.config.layout.con.sdreset = true) :
    exec (.wrCon v) s = .next (softwareReset s) := by
  rw [exec_wrCon_eq_decodeCn, decodeCn, if_pos h]; rfl

/-- A CON word without SDRESET stores CLKTYPE and acts on FIFORESET (R152). -/
theorem exec_wrCon_configure {v : Word} {s : State} (h : bitAt v s.config.layout.con.sdreset = false) :
    exec (.wrCon v) s = configure (bitAt v s.config.layout.con.clktype) (bitAt v s.config.layout.con.fiforeset) s := by
  rw [exec_wrCon_eq_decodeCn, decodeCn, h]; rfl

/-- The stored fields that software reset leaves by default (D6). -/
theorem afterReset_reference (r : Config.ResetValues) (h : r = Config.reference.reset) :
    (Regs.afterReset r).clktype = false ∧ (Regs.afterReset r).div = 0#32 ∧ (Regs.afterReset r).carg = 0#32 ∧
      (Regs.afterReset r).ccon = ⟨0#6, false, false, false⟩ ∧ (Regs.afterReset r).dtimer = 0#32 ∧
      (Regs.afterReset r).bsize = 0#32 ∧ (Regs.afterReset r).imsk = 0#32 := by
  subst h
  decide

/-- Settles O19: both ways to the reset leave `Regs.afterReset`. -/
theorem softwareResetClearsTheBlock : Obligations.SoftwareResetClearsTheBlock :=
  fun _ s hreset => ⟨Regs.afterReset s.config.reset, exec_wrCon_reset hreset, rfl, rfl, rfl, rfl, rfl, rfl, rfl, rfl, rfl, rfl,
    rfl, rfl, rfl, rfl, rfl, afterReset_reference s.config.reset⟩

/-- Without a FIFO reset, or with one while no data phase runs, CLKTYPE is stored and the FIFO emptied as asked (R152). -/
theorem configure_allowed {clktype fiforeset : Bool} {s : State}
    (h : fiforeset = false ∨ ∀ dir left, s.de ≠ .active dir left) :
    configure clktype fiforeset s =
      .next ((s.setRegs { s.regs with clktype := clktype }).setFifo (if fiforeset then [] else s.fifo)) := by
  cases fiforeset with
  | false => rfl
  | true =>
    have hquiet := h.resolve_left nofun
    unfold configure
    rw [if_pos rfl]
    split
    · next hde => exact absurd hde (hquiet _ _)
    · rfl

/-- A FIFO reset is refused while a data phase runs (R152, R382). -/
theorem configure_fifoInUse {clktype : Bool} {s : State} {dir : Direction} {left : Nat} (h : s.de = .active dir left) :
    configure clktype true s = .refused .fifoInUse := by
  simp [configure, h]

/-- Settles O20: the word and the form are both `configure`. -/
theorem configurationWriteAndFifoReset : Obligations.ConfigurationWriteAndFifoReset := by
  intro v s hreset
  rw [exec_wrCon_configure hreset]
  refine ⟨fun h => ⟨configure_allowed h, configure_allowed h⟩, fun dir left hfifo hde => ?_⟩
  rw [hfifo]
  exact ⟨configure_fifoInUse hde, configure_fifoInUse hde⟩

end Sys2Proof.Machine
end

section
/-! The frame of register accesses and device events (R84, R150): the sequencer's part of the state is not theirs. -/

namespace Sys2Proof.Machine

/-- An event is not a host read: it returns no word and draws nothing (R14). -/
theorem EventEffect.keeps_hostWord_draws {s t : State} (h : EventEffect s t) :
    t.hostWord = s.hostWord ∧ t.draws = s.draws := by
  cases h <;> exact ⟨rfl, rfl⟩

/-- What R150 says of a register access or a device event that goes on. -/
theorem accessOrEvent_sameSequencer {i : Instr} {s t : State} (hi : hostAccess i = true ∨ i.isEvent = true)
    (h : exec i s = .next t) : SameSequencer s t :=
  hi.elim (fun ha => (hostAccess_next ha h).sameSequencer) fun he => (event_next he h).sameSequencer

/-- Settles O34: from the effects of an access and of an event. -/
theorem accessesAndEventsLeaveTheSequencerAlone : Obligations.AccessesAndEventsLeaveTheSequencerAlone := by
  refine fun i s hi => ⟨fun _ => exec_ne_fault i, fun t h => ?_⟩
  obtain ⟨hconfig, hpc, hctrl, hsession, hbuffer, hclock, hgpio, hresult, hagenda⟩ := accessOrEvent_sameSequencer hi h
  exact ⟨hconfig, hpc, hctrl, hsession, hbuffer, hclock, hgpio, hresult, hagenda,
    fun ha => (hostAccess_next ha h).card, fun he => (event_next he h).keeps_hostWord_draws⟩

end Sys2Proof.Machine
end

section
/-! The command engine (R159, R200 to R205, R210 to R216): how a command is armed, what its events leave, and which
operations touch the command side of the block at all. -/

namespace Sys2Proof.Machine

/-! ## Arming (R159, R200 to R205) -/

/-- An idle command engine is armed with the word's fields and the argument CARG holds (R203). -/
theorem armCommand_idle {s : State} (h : s.ce = .idle) (index : BitVec 6) (wait long : Bool) :
    armCommand index wait long s =
      .next ((storeCcon ⟨index, true, wait, long⟩ s).setCe (.sending index s.regs.carg wait long)) := by
  simp [armCommand, h]

/-- A command in the engine refuses the next one (R205). -/
theorem armCommand_busy {s : State} (h : s.ce ≠ .idle) (index : BitVec 6) (wait long : Bool) :
    armCommand index wait long s = .refused .commandInFlight := by
  unfold armCommand
  split
  · next hce => exact absurd hce h
  · rfl

/-- A word without CMDSTART is only stored (R204). -/
theorem exec_wrCcon_store {w : Word} {s : State} (h : bitAt w s.config.layout.ccon.cmdstart = false) :
    exec (.wrCcon w) s = .next (storeCcon ⟨indexOf s.config.layout.ccon w, bitAt w s.config.layout.ccon.senderhost,
      bitAt w s.config.layout.ccon.waitrsp, bitAt w s.config.layout.ccon.longrsp⟩ s) := by
  simp [exec, execWrCcon, h]

/-- Settles O21: the forms are `armCommand`, and a word of one of their patterns selects it. -/
theorem commandFormsArmTheEngine : Obligations.CommandFormsArmTheEngine := by
  refine ⟨fun index s => ⟨fun hidle => ?_, fun hbusy => ?_⟩, fun _ _ _ _ _ => rfl, fun v s => exec_wrCcon_store,
    fun v s hnamed hstart hhost hresponse => ?_⟩
  · exact ⟨armCommand_idle hidle _ _ _, armCommand_idle hidle _ _ _, armCommand_idle hidle _ _ _⟩
  · exact ⟨armCommand_busy hbusy _ _ _, armCommand_busy hbusy _ _ _, armCommand_busy hbusy _ _ _⟩
  · rw [exec_wrCcon_arming hstart (if_pos ⟨hnamed, hhost, hresponse⟩)]
    exact ⟨(armCommand_idle · _ _ _), (armCommand_busy · _ _ _)⟩

/-! ## The command events (R210 to R213, R235) -/

/-- A data engine armed in the direction becomes active with the whole length left (R235). -/
theorem startPhase_armed {dir : Direction} {de : DataEngine} {total : Nat} (h : de = .armed dir total) :
    startPhase dir de = .active dir total := by
  rw [h]; exact if_pos rfl

/-- A data engine not armed in the direction stays (R235). -/
theorem startPhase_unarmed {dir : Direction} {de : DataEngine} (h : ∀ total, de ≠ .armed dir total) :
    startPhase dir de = de := by
  obtain ⟨total, hde, _⟩ | ⟨_, hsame⟩ := startPhase_cases dir de
  · exact absurd hde (h total)
  · exact hsame

/-- Settles O22: the data engine of the state after is `startPhase`, towards the host at CMD_SENT and towards the card at a
response. -/
theorem commandEngineEvents : Obligations.CommandEngineEvents := by
  refine ⟨fun index arg wait long s hce => ⟨startPhase .rx s.de, ?sent, fun _ => startPhase_armed, startPhase_unarmed⟩,
    fun s => ⟨startPhase .tx s.de, fun _ => startPhase_armed, startPhase_unarmed, fun w hce => ?short,
      fun w0 w1 w2 w3 hce => ?long⟩, fun long s hce => ?timeout⟩
  case sent => simp [exec, execEvCmdSent, State.appendCard, hce]
  case short => simp [exec, execEvRspShort, responseArrives, State.appendCard, hce]
  case long => simp [exec, execEvRspLong, responseArrives, State.appendCard, hce]
  case timeout => simp [exec, execEvRspTimeout, hce]

/-! ## The command side of the block (R216) -/

/-- The command engine, the response registers and the latched flags of CSTA as before. -/
structure CommandSideKept (s t : State) : Prop where
  ce : t.ce = s.ce
  rsp0 : t.regs.rsp0 = s.regs.rsp0
  rsp1 : t.regs.rsp1 = s.regs.rsp1
  rsp2 : t.regs.rsp2 = s.regs.rsp2
  rsp3 : t.regs.rsp3 = s.regs.rsp3
  csta : t.regs.csta = s.regs.csta

namespace CommandSideKept

variable {s t : State}

theorem of_same (hce : t.ce = s.ce) (hregs : t.regs = s.regs) : CommandSideKept s t := by
  constructor <;> simp only [hce, hregs]

theorem of_readWithDraw {mask named : Word} (h : readWithDraw mask named s = .next t) : CommandSideKept s t := by
  rw [readWithDraw_next h]; exact .of_same rfl rfl

theorem of_readWhole {w : Word} (h : readWhole w s = .next t) : CommandSideKept s t := by
  rw [readWhole_next h]; exact .of_same rfl rfl

theorem of_readResponseRegister {r : Option Word} (h : readResponseRegister r s = .next t) : CommandSideKept s t := by
  obtain ⟨_, _, rfl⟩ := readResponseRegister_keeps h; exact .of_same rfl rfl

theorem of_configure {clktype fiforeset : Bool} (h : configure clktype fiforeset s = .next t) : CommandSideKept s t := by
  obtain ⟨_, rfl⟩ | ⟨_, _, rfl⟩ := configure_next h <;> exact ⟨rfl, rfl, rfl, rfl, rfl, rfl⟩

theorem of_armData {dir : Direction} {blknum : BitVec 11} {widebus : Bool} (h : armData dir blknum widebus s = .next t) :
    CommandSideKept s t := by
  obtain ⟨_, _, _, rfl⟩ := armData_next h; exact ⟨rfl, rfl, rfl, rfl, rfl, rfl⟩

theorem of_dataErrorEvent {flags : DstaFlags} {stops : Bool} (h : dataErrorEvent flags stops s = .next t) :
    CommandSideKept s t := by
  obtain ⟨_, _, _, rfl⟩ := dataErrorEvent_next h; exact ⟨rfl, rfl, rfl, rfl, rfl, rfl⟩

end CommandSideKept

/-- The operations R216 lets touch the command side: the four command events, software reset, the write of CSTA
and arming. -/
def touchesCommandSide (l : Config.Layout) : Instr → Bool
  | .evCmdSent | .evRspShort _ | .evRspLong _ _ _ _ | .evRspTimeout => true
  | .conReset | .wrCsta _ | .cmdNorsp _ | .cmdShort _ | .cmdLong _ => true
  | .wrCon v => bitAt v l.con.sdreset
  | .wrCcon v => bitAt v l.ccon.cmdstart
  | _ => false

/-- Every other operation keeps the command side (R216). -/
theorem exec_keeps_commandSide {i : Instr} {s t : State} (hi : touchesCommandSide s.config.layout i = false)
    (h : exec i s = .next t) : CommandSideKept s t := by
  cases i with
  | rdCon | rdPre | rdCcon | rdCsta | rdDtimer | rdBsize | rdDcon | rdDcnt | rdDsta | rdFsta => exact .of_readWithDraw h
  | rdCarg | rdImsk => exact .of_readWhole h
  | rdRsp0 | rdRsp1 | rdRsp2 | rdRsp3 => exact .of_readResponseRegister h
  | wrRsp0 | wrRsp1 | wrRsp2 | wrRsp3 | wrDcnt | wrFsta => rw [← next_inj.mp h]; exact .of_same rfl rfl
  | wrCarg | wrDtimer | wrDsta | cconStore | dataOff => rw [← next_inj.mp h]; exact ⟨rfl, rfl, rfl, rfl, rfl, rfl⟩
  | wrPre v => obtain ⟨_, _, rfl⟩ := execWrPre_next h; exact ⟨rfl, rfl, rfl, rfl, rfl, rfl⟩
  | wrBsize v => obtain ⟨_, _, rfl⟩ := execWrBsize_next h; exact ⟨rfl, rfl, rfl, rfl, rfl, rfl⟩
  | wrImsk v => obtain ⟨_, rfl⟩ := execWrImsk_next h; exact ⟨rfl, rfl, rfl, rfl, rfl, rfl⟩
  | rdDat => obtain ⟨_, _, _, _, _, _, rfl⟩ := fifoPop_next h; exact .of_same rfl rfl
  | wrDat v => obtain ⟨_, rfl⟩ := fifoPush_next h; exact .of_same rfl rfl
  | conCfg => exact .of_configure h
  | wrCon v => rw [exec_wrCon_configure hi] at h; exact .of_configure h
  | wrCcon v =>
    rw [exec_wrCcon_store hi] at h
    rw [← next_inj.mp h]
    exact ⟨rfl, rfl, rfl, rfl, rfl, rfl⟩
  | dataRx | dataTx => exact .of_armData h
  | wrDcon v =>
    obtain rfl | ⟨_, _, _, harm⟩ := execWrDcon_next h
    · exact ⟨rfl, rfl, rfl, rfl, rfl, rfl⟩
    · exact .of_armData harm
  | evRxBytes bs => obtain ⟨_, _, _, _, _, rfl⟩ := execEvRxBytes_next h; exact .of_same rfl rfl
  | evTxBytes k => obtain ⟨_, _, _, _, _, rfl⟩ := execEvTxBytes_next h; exact .of_same rfl rfl
  | evDataFinish => obtain ⟨_, _, rfl⟩ := execEvDataFinish_next h; exact ⟨rfl, rfl, rfl, rfl, rfl, rfl⟩
  | evCrcFail | evRxcrcFail | evDataTimeout | evFifoFail => exact .of_dataErrorEvent h
  | execute | issue | readResponse | transfer | waitCompletion | probe | setClock | cardPresent | writeProtected =>
    obtain ⟨_, hregs, _, hce, _, _⟩ := sessionOperation_keeps_block rfl rfl h
    exact .of_same hce hregs
  | conReset | wrCsta | cmdNorsp | cmdShort | cmdLong | evCmdSent | evRspShort | evRspLong | evRspTimeout => cases hi

/-- Settles O24: the operations the statement excludes are those of `touchesCommandSide`. -/
theorem onlyCommandOperationsTouchTheCommandEngine : Obligations.OnlyCommandOperationsTouchTheCommandEngine := by
  intro i s t h hsent hshort hlong htimeout hreset hcon hcsta hnorsp hcmdShort hcmdLong hccon
  have hi : touchesCommandSide s.config.layout i = false := by
    cases i with
    | evCmdSent => exact absurd rfl hsent
    | evRspShort w => exact absurd rfl (hshort w)
    | evRspLong w0 w1 w2 w3 => exact absurd rfl (hlong w0 w1 w2 w3)
    | evRspTimeout => exact absurd rfl htimeout
    | conReset => exact absurd rfl hreset
    | wrCsta v => exact absurd rfl (hcsta v)
    | cmdNorsp n => exact absurd rfl (hnorsp n)
    | cmdShort n => exact absurd rfl (hcmdShort n)
    | cmdLong n => exact absurd rfl (hcmdLong n)
    | wrCon v => exact Bool.eq_false_iff.mpr fun hb => hcon v hb rfl
    | wrCcon v => exact Bool.eq_false_iff.mpr fun hb => hccon v hb rfl
    | _ => rfl
  obtain ⟨hce, h0, h1, h2, h3, hflags⟩ := exec_keeps_commandSide hi h
  exact ⟨hce, h0, h1, h2, h3, hflags⟩

/-! ## One command, one answer (R214) -/

theorem CommandSideKept.keeps_oneAnswer {s t : State} (h : CommandSideKept s t) (hs : oneAnswer s) : oneAnswer t := by
  unfold oneAnswer
  rw [h.csta, h.ce]
  exact hs

/-- A response to the command in the engine sets RSPFIN alone and ends the command. -/
theorem oneAnswer_responseArrives {s : State} (hs : oneAnswer s) (hce : s.ce ≠ .idle) (words : List Word)
    (rsp0 rsp1 rsp2 rsp3 : Option Word) : oneAnswer (responseArrives words rsp0 rsp1 rsp2 rsp3 s) :=
  ⟨fun _ => (hs.2 hce).2, fun hbusy => absurd rfl hbusy⟩

/-- Settles O23: an event that answers the command finds both flags clear, sets one and makes the engine idle; every other
event keeps both flags, and none arms a command. -/
theorem oneCommandGetsOneAnswer : Obligations.OneCommandGetsOneAnswer := by
  intro i s t hevent hs h
  cases i with
  | evCmdSent =>
    obtain ⟨_, _, _, _, hce, rfl⟩ := execEvCmdSent_next h
    exact ⟨hs.1, fun _ => hs.2 (by rw [hce]; nofun)⟩
  | evRspShort w =>
    obtain ⟨hce, rfl⟩ := execEvRspShort_next h
    exact oneAnswer_responseArrives hs (by rw [hce]; nofun) ..
  | evRspLong w0 w1 w2 w3 =>
    obtain ⟨hce, rfl⟩ := execEvRspLong_next h
    exact oneAnswer_responseArrives hs (by rw [hce]; nofun) ..
  | evRspTimeout =>
    obtain ⟨_, hce, rfl⟩ := execEvRspTimeout_next h
    obtain ⟨hrspfin, _⟩ := hs.2 (by rw [hce]; nofun)
    exact ⟨fun hset => absurd (hrspfin.symm.trans hset) nofun, fun hbusy => absurd rfl hbusy⟩
  | evRxBytes | evTxBytes | evDataFinish | evCrcFail | evRxcrcFail | evDataTimeout | evFifoFail =>
    exact (exec_keeps_commandSide rfl h).keeps_oneAnswer hs
  | _ => cases hevent

end Sys2Proof.Machine
end

section
/-! The data engine and the FIFO (R173, R183, R184, R230 to R241): how a data phase is armed and ended, and the two accesses
of the data register. -/

namespace Sys2Proof.Machine

/-! ## Arming (R173, R231 to R234) -/

/-- An idle data engine with a block count and a block size is armed with the length of this moment (R231 to R233). -/
theorem armData_idle {s : State} {blknum : BitVec 11} (hde : s.de = .idle) (hn : blknum ≠ 0#11) (hb : s.regs.bsize ≠ 0#32)
    (dir : Direction) (widebus : Bool) :
    armData dir blknum widebus s =
      .next ((s.setRegs { s.regs with dcon := armingFields s.config.layout.dcon dir blknum widebus }).setDe
        (.armed dir (s.regs.bsize.toNat * blknum.toNat))) := by
  simp [armData, hde, hn, hb]

/-- Outside that state arming is refused (R234). -/
theorem armData_refused {s : State} {blknum : BitVec 11} (h : s.de ≠ .idle ∨ blknum = 0#11 ∨ s.regs.bsize = 0#32)
    (dir : Direction) (widebus : Bool) : armData dir blknum widebus s = .refused .dataArmRefused := by
  unfold armData
  split
  · next hidle => exact if_pos (h.resolve_left (absurd hidle))
  · rfl

/-- A word of an arming form holds the direction's values, and RACMD or TARSP says which direction it is (R114). -/
theorem dataForm_fields {c : Config} (hc : Admissible c) {w : Word} {dir : Direction}
    (h : dataForm c.layout.dcon w = some dir) :
    let l := c.layout.dcon
    l.modeOf w = startMode l dir ∧ bitAt w l.blockmode = true ∧ bitAt w l.racmd = decide (dir = .rx) ∧
      bitAt w l.tarsp = decide (dir = .tx) ∧ l.datasize.get w = l.wordSize := by
  intro l
  rw [eq_dataFormWord hc.dcon h]
  obtain ⟨-, -, -, hblock, hracmd, htarsp⟩ := dataFormWord_fields hc.dcon dir (blknumOf l w) (bitAt w l.widebus)
  obtain ⟨hmode, hsize⟩ := dataFormWord_values hc dir (blknumOf l w) (bitAt w l.widebus)
  exact ⟨hmode, hblock, hracmd, htarsp, hsize⟩

/-- What arming by a word of an arming form stores are the fields of the word (R173). -/
theorem armingFields_of_dataForm {c : Config} (hc : Admissible c) {w : Word} {dir : Direction}
    (h : dataForm c.layout.dcon w = some dir) :
    let l := c.layout.dcon
    armingFields l dir (blknumOf l w) (bitAt w l.widebus) = ⟨blknumOf l w, l.modeOf w, bitAt w l.widebus,
      bitAt w l.blockmode, bitAt w l.racmd, bitAt w l.tarsp, l.datasize.get w⟩ := by
  intro l
  obtain ⟨hmode, hblock, hracmd, htarsp, hsize⟩ := dataForm_fields hc h
  rw [hmode, hblock, hracmd, htarsp, hsize]
  cases dir <;> rfl

/-- Settles O25: the forms are `armData`, and a word of one of their patterns is `armData` with the word's own fields. -/
theorem dataFormsArmTheEngine : Obligations.DataFormsArmTheEngine := by
  refine ⟨fun blknum widebus s => ⟨fun hde hn hb => ?armed, fun h => ?refused⟩,
    fun v dir s hc hpattern => ⟨fun hde hn hb => ?armedByWord, fun h => ?refusedByWord⟩⟩
  case armed => exact ⟨armData_idle hde hn hb .rx widebus, armData_idle hde hn hb .tx widebus⟩
  case refused => exact ⟨armData_refused h .rx widebus, armData_refused h .tx widebus⟩
  all_goals have hform := dataForm_of_masked hc.dcon hpattern
  case armedByWord =>
    obtain ⟨-, -, hracmd, htarsp, -⟩ := dataForm_fields hc hform
    refine ⟨?_, by rw [hracmd, decide_eq_true_iff], by rw [htarsp, decide_eq_true_iff]⟩
    rw [exec_wrDcon_arming hc.dcon hform, armData_idle hde hn hb, armingFields_of_dataForm hc hform]
  case refusedByWord => rw [exec_wrDcon_arming hc.dcon hform, armData_refused h]

/-! ## The zero write (R236) -/

/-- Settles O26: the form is `dataControlOff`, and so is the zero word. -/
theorem dataOffReturnsToIdle : Obligations.DataOffReturnsToIdle := fun s => ⟨rfl, exec_wrDcon_zero s⟩

/-! ## The data register (R183, R184, R240, R241) -/

/-- A pop without four bytes is refused (R240). -/
theorem fifoPop_underflow {s : State} (h : s.fifo.length < 4) : fifoPop s = .refused .fifoUnderflow := by
  unfold fifoPop
  split
  · next hfifo =>
    rw [hfifo] at h
    simp only [List.length_cons] at h
    omega
  · rfl

/-- A push without room for four bytes is refused (R241). -/
theorem fifoPush_overflow {s : State} (h : s.config.fifoDepth < s.fifo.length + 4) (v : Word) :
    fifoPush v s = .refused .fifoOverflow := if_neg (by omega)

/-- Settles O27: the accesses are `fifoPop` and `fifoPush`, and the popped word has the popped bytes. -/
theorem dataRegisterMovesFourBytes : Obligations.DataRegisterMovesFourBytes :=
  ⟨fun _ => ⟨rfl, rfl⟩,
    fun b0 b1 b2 b3 _ _ hfifo => ⟨wordOfBytes b0 b1 b2 b3, fifoPop_cons hfifo, byteOf_wordOfBytes b0 b1 b2 b3⟩,
    fun _ => fifoPop_underflow, fun _ _ => fifoPush_room, fun v _ h => fifoPush_overflow h v⟩

end Sys2Proof.Machine
end

section
/-! The device events (R210 to R213, R250 to R252, R260 to R265): what a data event does where its guard holds, and that no
event happens where it does not. -/

namespace Sys2Proof.Machine

open Host

/-! ## Data movement (R250 to R252) -/

theorem execEvRxBytes_enabled {bs : List Byte} {left : Nat} {s : State} (hde : s.de = .active .rx left)
    (hsome : 1 ≤ bs.length) (hleft : bs.length ≤ left) (hroom : s.fifo.length + bs.length ≤ s.config.fifoDepth) :
    execEvRxBytes bs s =
      .next (((s.appendCard (.rxBytes bs)).setFifo (s.fifo ++ bs)).setDe (.active .rx (left - bs.length))) := by
  simp [execEvRxBytes, hde, hsome, hleft, hroom]

theorem execEvRxBytes_noRoom {bs : List Byte} {s : State} (h : s.config.fifoDepth < s.fifo.length + bs.length) :
    execEvRxBytes bs s = .refused .eventNotEnabled := by
  unfold execEvRxBytes
  split
  · exact if_neg (by omega)
  · rfl

theorem execEvTxBytes_enabled {k left : Nat} {s : State} (hde : s.de = .active .tx left) (hsome : 1 ≤ k) (hleft : k ≤ left)
    (hqueued : k ≤ s.fifo.length) :
    execEvTxBytes k s =
      .next (((s.appendCard (.txBytes (s.fifo.take k))).setFifo (s.fifo.drop k)).setDe (.active .tx (left - k))) := by
  simp [execEvTxBytes, hde, hsome, hleft, hqueued]

theorem execEvTxBytes_noBytes {k : Nat} {s : State} (h : s.fifo.length < k) :
    execEvTxBytes k s = .refused .eventNotEnabled := by
  unfold execEvTxBytes
  split
  · exact if_neg (by omega)
  · rfl

theorem execEvDataFinish_enabled {dir : Direction} {s : State} (hde : s.de = .active dir 0) :
    execEvDataFinish s =
      .next ((s.setRegs { s.regs with dsta := { s.regs.dsta with xferfinish := true } }).setDe .done) := by
  simp [execEvDataFinish, hde]

/-- Settles O29: the bytes that leave the FIFO are its first `k`. -/
theorem dataMovementEvents : Obligations.DataMovementEvents :=
  ⟨fun _ _ _ => execEvRxBytes_enabled,
    fun k _ s hde hsome hleft hqueued => ⟨s.fifo.take k, s.fifo.drop k, (List.take_append_drop k s.fifo).symm,
      List.length_take_of_le hqueued, execEvTxBytes_enabled hde hsome hleft hqueued⟩,
    fun _ _ => execEvDataFinish_enabled, fun _ _ => execEvRxBytes_noRoom, fun _ _ => execEvTxBytes_noBytes⟩

/-! ## Error events (R260 to R265) -/

theorem dataErrorEvent_active {dir : Direction} {left : Nat} {s : State} (hde : s.de = .active dir left)
    (flags : DstaFlags) (stops : Bool) :
    dataErrorEvent flags stops s =
      .next ((s.setRegs { s.regs with dsta := flags }).setDe (if stops then .err else .active dir left)) := by
  simp [dataErrorEvent, hde]

/-- Settles O30: each error event is `dataErrorEvent` with its flag set. -/
theorem dataErrorEvents : Obligations.DataErrorEvents := fun stops _ _ _ hde =>
  ⟨dataErrorEvent_active hde _ stops, dataErrorEvent_active hde _ stops, dataErrorEvent_active hde _ stops,
    dataErrorEvent_active hde _ stops⟩

/-- An error event happens exactly in an active data phase (R265). -/
theorem dataErrorEvent_happens_iff (flags : DstaFlags) (stops : Bool) (s : State) :
    (∃ t, dataErrorEvent flags stops s = .next t) ↔ ∃ dir left, s.de = .active dir left := by
  constructor
  · rintro ⟨t, h⟩
    obtain ⟨dir, left, hde, _⟩ := dataErrorEvent_next h
    exact ⟨dir, left, hde⟩
  · rintro ⟨dir, left, hde⟩
    exact ⟨_, dataErrorEvent_active hde flags stops⟩

/-! ## When an event happens (R265) -/

theorem evCmdSent_happens_iff (s : State) :
    (∃ t, exec .evCmdSent s = .next t) ↔ ∃ index arg wait long, s.ce = .sending index arg wait long := by
  constructor
  · rintro ⟨t, h⟩
    obtain ⟨index, arg, wait, long, hce, _⟩ := execEvCmdSent_next h
    exact ⟨index, arg, wait, long, hce⟩
  · rintro ⟨index, arg, wait, long, hce⟩
    obtain ⟨hsent, -⟩ := commandEngineEvents
    obtain ⟨_, h, -⟩ := hsent index arg wait long s hce
    exact ⟨_, h⟩

theorem evRspShort_happens_iff (w : Word) (s : State) :
    (∃ t, exec (.evRspShort w) s = .next t) ↔ s.ce = .waitRsp false := by
  constructor
  · rintro ⟨t, h⟩
    exact (execEvRspShort_next h).1
  · intro hce
    obtain ⟨-, hanswered, -⟩ := commandEngineEvents
    obtain ⟨_, -, -, hshort, -⟩ := hanswered s
    exact ⟨_, hshort w hce⟩

theorem evRspLong_happens_iff (w0 w1 w2 w3 : Word) (s : State) :
    (∃ t, exec (.evRspLong w0 w1 w2 w3) s = .next t) ↔ s.ce = .waitRsp true := by
  constructor
  · rintro ⟨t, h⟩
    exact (execEvRspLong_next h).1
  · intro hce
    obtain ⟨-, hanswered, -⟩ := commandEngineEvents
    obtain ⟨_, -, -, -, hlong⟩ := hanswered s
    exact ⟨_, hlong w0 w1 w2 w3 hce⟩

theorem evRspTimeout_happens_iff (s : State) : (∃ t, exec .evRspTimeout s = .next t) ↔ ∃ long, s.ce = .waitRsp long := by
  constructor
  · rintro ⟨t, h⟩
    obtain ⟨long, hce, _⟩ := execEvRspTimeout_next h
    exact ⟨long, hce⟩
  · rintro ⟨long, hce⟩
    obtain ⟨-, -, htimeout⟩ := commandEngineEvents
    exact ⟨_, htimeout long s hce⟩

theorem evRxBytes_happens_iff (bs : List Byte) (s : State) :
    (∃ t, exec (.evRxBytes bs) s = .next t) ↔ ∃ left, s.de = .active .rx left ∧ 1 ≤ bs.length ∧ bs.length ≤ left ∧
      s.fifo.length + bs.length ≤ s.config.fifoDepth := by
  constructor
  · rintro ⟨t, h⟩
    obtain ⟨left, hde, hsome, hleft, hroom, _⟩ := execEvRxBytes_next h
    exact ⟨left, hde, hsome, hleft, hroom⟩
  · rintro ⟨left, hde, hsome, hleft, hroom⟩
    exact ⟨_, execEvRxBytes_enabled hde hsome hleft hroom⟩

theorem evTxBytes_happens_iff (k : Nat) (s : State) :
    (∃ t, exec (.evTxBytes k) s = .next t) ↔ ∃ left, s.de = .active .tx left ∧ 1 ≤ k ∧ k ≤ left ∧ k ≤ s.fifo.length := by
  constructor
  · rintro ⟨t, h⟩
    obtain ⟨left, hde, hsome, hleft, hqueued, _⟩ := execEvTxBytes_next h
    exact ⟨left, hde, hsome, hleft, hqueued⟩
  · rintro ⟨left, hde, hsome, hleft, hqueued⟩
    exact ⟨_, execEvTxBytes_enabled hde hsome hleft hqueued⟩

theorem evDataFinish_happens_iff (s : State) : (∃ t, exec .evDataFinish s = .next t) ↔ ∃ dir, s.de = .active dir 0 := by
  constructor
  · rintro ⟨t, h⟩
    obtain ⟨dir, hde, _⟩ := execEvDataFinish_next h
    exact ⟨dir, hde⟩
  · rintro ⟨dir, hde⟩
    exact ⟨_, execEvDataFinish_enabled hde⟩

/-- An event that changes the flags of DSTA is one of an active data phase (R265). -/
theorem EventEffect.active_of_dsta_ne {s t : State} (h : EventEffect s t) (hne : t.regs.dsta ≠ s.regs.dsta) :
    ∃ dir left, s.de = .active dir left := by
  cases h with
  | dataFinish hde => exact ⟨_, _, hde⟩
  | dataError _ _ hde => exact ⟨_, _, hde⟩
  | cmdSent | shortResponse | longResponse | noResponse | rxBytes | txBytes => exact absurd rfl hne

/-- Settles O31: event by event; the error events are all `dataErrorEvent`. -/
theorem eventsHappenExactlyUnderTheirGuards : Obligations.EventsHappenExactlyUnderTheirGuards := by
  refine fun s => ⟨evCmdSent_happens_iff s, (evRspShort_happens_iff · s), (evRspLong_happens_iff · · · · s),
    evRspTimeout_happens_iff s, (evRxBytes_happens_iff · s), (evTxBytes_happens_iff · s), evDataFinish_happens_iff s,
    fun stops i hi => ?_, fun i t hevent h hne => (event_next hevent h).active_of_dsta_ne hne⟩
  obtain rfl | rfl | rfl | rfl := hi
  all_goals exact dataErrorEvent_happens_iff _ stops s

end Sys2Proof.Machine
end

section
/-! Which operations touch the data engine, and which the FIFO (R269). -/

namespace Sys2Proof.Machine

/-- The operations R269 lets touch the data engine: the accesses that arm or idle it, software reset, and every
event but RSP_TIMEOUT. -/
def touchesDataEngine (l : Config.Layout) : Instr → Bool
  | .wrDcon _ | .dataRx _ _ | .dataTx _ _ | .dataOff | .conReset => true
  | .wrCon v => bitAt v l.con.sdreset
  | .evRspTimeout => false
  | i => i.isEvent

/-- The operations R269 lets touch the FIFO: the accesses of DAT, the two resets, and the events that move bytes. -/
def touchesFifo (l : Config.Layout) : Instr → Bool
  | .rdDat | .wrDat _ | .conReset | .evRxBytes _ | .evTxBytes _ => true
  | .conCfg _ fiforeset => fiforeset
  | .wrCon v => bitAt v l.con.sdreset || bitAt v l.con.fiforeset
  | _ => false

theorem configure_keeps_de {clktype fiforeset : Bool} {s t : State} (h : configure clktype fiforeset s = .next t) :
    t.de = s.de := by
  obtain ⟨_, rfl⟩ | ⟨_, _, rfl⟩ := configure_next h <;> rfl

theorem configure_keeps_fifo {clktype : Bool} {s t : State} (h : configure clktype false s = .next t) :
    t.fifo = s.fifo := by
  rw [← next_inj.mp h]; rfl

/-- Every other operation keeps the data engine, and every other the FIFO (R269). -/
theorem exec_keeps_dataSide {i : Instr} {s t : State} (h : exec i s = .next t) :
    (touchesDataEngine s.config.layout i = false → t.de = s.de) ∧
      (touchesFifo s.config.layout i = false → t.fifo = s.fifo) := by
  cases i with
  | rdCon | rdPre | rdCcon | rdCsta | rdDtimer | rdBsize | rdDcon | rdDcnt | rdDsta | rdFsta =>
    rw [readWithDraw_next h]; exact ⟨fun _ => rfl, fun _ => rfl⟩
  | rdCarg | rdImsk => rw [readWhole_next h]; exact ⟨fun _ => rfl, fun _ => rfl⟩
  | rdRsp0 | rdRsp1 | rdRsp2 | rdRsp3 =>
    obtain ⟨_, _, rfl⟩ := readResponseRegister_keeps h; exact ⟨fun _ => rfl, fun _ => rfl⟩
  | wrRsp0 | wrRsp1 | wrRsp2 | wrRsp3 | wrDcnt | wrFsta | wrCarg | wrCsta | wrDtimer | wrDsta | cconStore =>
    rw [← next_inj.mp h]; exact ⟨fun _ => rfl, fun _ => rfl⟩
  | wrPre v => obtain ⟨_, _, rfl⟩ := execWrPre_next h; exact ⟨fun _ => rfl, fun _ => rfl⟩
  | wrBsize v => obtain ⟨_, _, rfl⟩ := execWrBsize_next h; exact ⟨fun _ => rfl, fun _ => rfl⟩
  | wrImsk v => obtain ⟨_, rfl⟩ := execWrImsk_next h; exact ⟨fun _ => rfl, fun _ => rfl⟩
  | wrCcon v =>
    obtain ⟨_, _, rfl⟩ | ⟨_, _, _, _, harm⟩ := execWrCcon_next h
    · exact ⟨fun _ => rfl, fun _ => rfl⟩
    · obtain ⟨_, rfl⟩ := armCommand_next harm; exact ⟨fun _ => rfl, fun _ => rfl⟩
  | cmdNorsp | cmdShort | cmdLong => obtain ⟨_, rfl⟩ := armCommand_next h; exact ⟨fun _ => rfl, fun _ => rfl⟩
  | evRspTimeout => obtain ⟨_, _, rfl⟩ := execEvRspTimeout_next h; exact ⟨fun _ => rfl, fun _ => rfl⟩
  | execute | issue | readResponse | transfer | waitCompletion | probe | setClock | cardPresent | writeProtected =>
    obtain ⟨_, _, hfifo, _, hde, _⟩ := sessionOperation_keeps_block rfl rfl h
    exact ⟨fun _ => hde, fun _ => hfifo⟩
  | dataRx | dataTx => obtain ⟨_, _, _, rfl⟩ := armData_next h; exact ⟨nofun, fun _ => rfl⟩
  | wrDcon v =>
    obtain rfl | ⟨_, _, _, harm⟩ := execWrDcon_next h
    · exact ⟨nofun, fun _ => rfl⟩
    · obtain ⟨_, _, _, rfl⟩ := armData_next harm; exact ⟨nofun, fun _ => rfl⟩
  | dataOff => rw [← next_inj.mp h]; exact ⟨nofun, fun _ => rfl⟩
  | evCmdSent => obtain ⟨_, _, _, _, _, rfl⟩ := execEvCmdSent_next h; exact ⟨nofun, fun _ => rfl⟩
  | evRspShort w => obtain ⟨_, rfl⟩ := execEvRspShort_next h; exact ⟨nofun, fun _ => rfl⟩
  | evRspLong w0 w1 w2 w3 => obtain ⟨_, rfl⟩ := execEvRspLong_next h; exact ⟨nofun, fun _ => rfl⟩
  | evDataFinish => obtain ⟨_, _, rfl⟩ := execEvDataFinish_next h; exact ⟨nofun, fun _ => rfl⟩
  | evCrcFail | evRxcrcFail | evDataTimeout | evFifoFail =>
    obtain ⟨_, _, _, rfl⟩ := dataErrorEvent_next h; exact ⟨nofun, fun _ => rfl⟩
  | rdDat => obtain ⟨_, _, _, _, _, _, rfl⟩ := fifoPop_next h; exact ⟨fun _ => rfl, nofun⟩
  | wrDat v => obtain ⟨_, rfl⟩ := fifoPush_next h; exact ⟨fun _ => rfl, nofun⟩
  | conCfg clktype fiforeset =>
    refine ⟨fun _ => configure_keeps_de h, fun hfifo => ?_⟩
    cases fiforeset with
    | false => exact configure_keeps_fifo h
    | true => cases hfifo
  | wrCon v =>
    refine ⟨fun hreset => ?_, fun hresets => ?_⟩
    · rw [exec_wrCon_configure hreset] at h
      exact configure_keeps_de h
    · obtain ⟨hreset, hfifo⟩ := Bool.or_eq_false_iff.mp hresets
      rw [exec_wrCon_configure hreset, hfifo] at h
      exact configure_keeps_fifo h
  | conReset | evRxBytes | evTxBytes => exact ⟨nofun, nofun⟩

/-- Settles O32: the operations the statement lists are those of `touchesDataEngine` and of `touchesFifo`. -/
theorem onlyDataOperationsTouchEngineAndFifo : Obligations.OnlyDataOperationsTouchEngineAndFifo := by
  intro i s t h
  obtain ⟨hkeepsDe, hkeepsFifo⟩ := exec_keeps_dataSide h
  refine ⟨fun hne => ?engine, fun hne => ?fifo⟩
  case engine =>
    have hi : touchesDataEngine s.config.layout i = true := Bool.of_not_eq_false (mt hkeepsDe hne)
    cases i with
    | wrCon v =>
      have hreset : bitAt v s.config.layout.con.sdreset = true := hi
      simp [hreset]
    | wrDcon | dataRx | dataTx | dataOff | conReset | evCmdSent | evRspShort | evRspLong | evRxBytes | evTxBytes
    | evDataFinish | evCrcFail | evRxcrcFail | evDataTimeout | evFifoFail => simp
    | _ => cases hi
  case fifo =>
    have hi : touchesFifo s.config.layout i = true := Bool.of_not_eq_false (mt hkeepsFifo hne)
    cases i with
    | wrCon v =>
      have hreset := Bool.or_eq_true_iff.mp hi
      simp [hreset]
    | conCfg clktype fiforeset =>
      obtain rfl : fiforeset = true := hi
      simp
    | rdDat | wrDat | conReset | evRxBytes | evTxBytes => simp
    | _ => cases hi

end Sys2Proof.Machine
end

section
/-! The phase of the sequencer (R62, R335): where each return of a sub-step, each access and each step leads, row by row of the
table of phase transitions. -/

namespace Sys2Proof.Machine

open Host

/-- The phase stays or moves along a row of R335's table, and leaves DataPhase for Failed(DataTimeout) only under
DATA_LOOP_BOUND. -/
structure PhaseMoves (s t : State) : Prop where
  row : t.pc = s.pc ∨ phaseRow s.pc t.pc
  timeout : s.pc = .dataPhase → t.pc = .failed .dataTimeout → s.config.dataLoopBound.isSome = true

namespace PhaseMoves

variable {s t u : State} {x : ExecRun}

theorem of_pc_eq (h : t.pc = s.pc) : PhaseMoves s t :=
  ⟨.inl h, fun hs ht => by rw [h, hs] at ht; cases ht⟩

/-- A row that does not start in DataPhase. -/
theorem of_row {before : Phase} (hs : s.pc = before) (hrow : phaseRow before t.pc) (hne : before ≠ .dataPhase) :
    PhaseMoves s t :=
  ⟨.inr (hs ▸ hrow), fun h _ => absurd (hs.symm.trans h) hne⟩

/-- A row that starts in DataPhase and is not the one to Failed(DataTimeout). -/
theorem of_dataPhase {after : Phase} (hs : s.pc = .dataPhase) (ht : t.pc = after) (hrow : phaseRow .dataPhase after)
    (hne : after ≠ .failed .dataTimeout) : PhaseMoves s t :=
  ⟨.inr (by rw [hs, ht]; exact hrow), fun _ h => absurd (ht.symm.trans h) hne⟩

/-- What comes before the move keeps phase and configuration. -/
theorem of_same_before (h : PhaseMoves u t) (hpc : u.pc = s.pc) (hconfig : u.config = s.config) : PhaseMoves s t :=
  ⟨hpc ▸ h.row, hpc ▸ hconfig ▸ h.timeout⟩

/-! ## Where the return of a sub-step leads (R281) -/

theorem issueReturned (hs : s.pc = .commandPhase) (r : IssueResult) : PhaseMoves s (Machine.issueReturned r x s) := by
  cases r with
  | sent | responded => exact of_pc_eq rfl
  | timedOut => exact of_row hs trivial nofun

theorem responseReturned (hs : s.pc = .commandPhase) (resp : Response) :
    PhaseMoves s (Machine.responseReturned resp x s) := by
  unfold Machine.responseReturned
  split <;> exact of_row hs trivial nofun

theorem waitReturned (hs : s.pc = .completionPhase) (r : WaitResult) : PhaseMoves s (Machine.waitReturned r x s) := by
  cases r with
  | finished => exact of_pc_eq rfl
  | timedOut => exact of_row hs trivial nofun

/-- The error flags of an iteration lead to Failed(DataError). -/
theorem transferReturned_error (hs : s.pc = .dataPhase) {bits : Word} (hbits : bits ≠ 0#32) (rem : Nat) :
    PhaseMoves s (Machine.transferReturned ⟨false, rem, bits⟩ x s) := by
  simp only [Machine.transferReturned, Bool.false_eq_true, if_false, if_neg hbits]
  exact of_dataPhase hs rfl trivial nofun

/-- The head of the loop ends the transfer when no byte is left, and fails it only at DATA_LOOP_BOUND. -/
theorem loopHead (hs : s.pc = .dataPhase) : PhaseMoves s (Machine.loopHead x s) := by
  unfold Machine.loopHead
  split
  · exact of_dataPhase hs rfl trivial nofun
  · split
    · exact of_pc_eq rfl
    · next bound hbound =>
      split
      · exact ⟨.inr (hs ▸ trivial), fun _ _ => by rw [hbound]; rfl⟩
      · exact of_pc_eq rfl

/-! ## Where an access of the sequencer leads -/

theorem afterPollCsta (hs : s.pc = .commandPhase) (v : Word) : PhaseMoves s (Machine.afterPollCsta v x s) := by
  unfold Machine.afterPollCsta
  split
  · exact of_pc_eq rfl
  · split
    · exact issueReturned hs _
    · split
      · exact issueReturned hs _
      · exact of_pc_eq rfl

theorem afterPollDsta (hs : s.pc = .completionPhase) (v : Word) : PhaseMoves s (Machine.afterPollDsta v x s) := by
  unfold Machine.afterPollDsta
  split
  · exact of_pc_eq rfl
  · split
    · exact waitReturned hs _
    · split
      · exact waitReturned hs _
      · exact of_pc_eq rfl

theorem afterStatus (hs : s.pc = .dataPhase) : PhaseMoves s (Machine.afterStatus x s) := by
  unfold Machine.afterStatus
  split
  · next hbits => exact transferReturned_error hs hbits _
  · split
    · exact of_pc_eq rfl
    · split
      · split
        · exact loopHead hs
        · exact of_pc_eq rfl
      · split
        · exact of_pc_eq rfl
        · exact loopHead hs

theorem afterMove (hs : s.pc = .dataPhase) (v : Word) : PhaseMoves s (Machine.afterMove v x s) := by
  unfold Machine.afterMove
  split
  · exact of_pc_eq rfl
  · split
    · exact (loopHead (s := s.setBuffer (bufWrite32 s.buffer x.off v)) hs).of_same_before rfl rfl
    · exact loopHead hs

/-- Each position of EXECUTE has its phase, and what follows its access is a row from there. -/
theorem afterExecuteAccess (h : Inv s) (hs : s.session = .execute x) (v : Word) :
    PhaseMoves s (Machine.afterExecuteAccess v x s) := by
  obtain ⟨-, hx⟩ := h.run_sound hs
  unfold ExecRun.sound at hx
  unfold Machine.afterExecuteAccess
  cases hp : x.pos <;> simp only [hp] at hx ⊢
  case clearCsta | clearDsta | clearFsta | writeBsize | writeDcon | writeCarg | writeCcon | readRsp1 | readRsp2
    | readDsta | clearDone | clearDcon => exact of_pc_eq rfl
  case pollCsta => exact afterPollCsta hx.1 v
  case clearConsumed => exact issueReturned hx.1 _
  case readRsp0 =>
    split
    · exact of_pc_eq rfl
    · exact responseReturned hx.1 _
  case readRsp3 => exact responseReturned hx.1 _
  case readFsta => exact afterStatus hx.1
  case moveWord => exact afterMove hx.1 v
  case pollDsta => exact afterPollDsta hx.1 v
  case dataOff => exact waitReturned hx.1 _
  case callIssue | callReadResponse | callTransfer | callWait | finish | returnFailure => exact of_pc_eq rfl

theorem afterAccess (h : Inv s) : PhaseMoves s (Machine.afterAccess s) := by
  unfold Machine.afterAccess
  split
  · exact of_pc_eq rfl
  · next x hs => exact afterExecuteAccess h hs _
  · next pos _ => cases pos <;> exact of_pc_eq rfl
  · exact of_pc_eq rfl

/-! ## Where a step without an access and an operation lead -/

/-- EXECUTE leaves for Idle at its two ends, from CompletionPhase and from Failed. -/
theorem silentStep (h : Inv s) : PhaseMoves s (Machine.silentStep s) := by
  unfold Machine.silentStep
  split
  · exact of_pc_eq rfl
  · next x hs =>
    obtain ⟨-, hx⟩ := h.run_sound hs
    split
    · next hp =>
      simp only [ExecRun.sound, hp] at hx
      exact of_row hx.1 trivial nofun
    · next hp =>
      simp only [ExecRun.sound, hp] at hx
      obtain ⟨reason, hpc⟩ := hx
      rw [returnFailure, hpc]
      exact of_row hpc trivial nofun
    · exact of_pc_eq rfl
  all_goals exact of_pc_eq rfl

theorem execExecute {cmd : Command} {data : Option Descriptor} (hx : Machine.execExecute cmd data s = .next t) :
    PhaseMoves s t := by
  obtain ⟨⟨-, hpc, -⟩, ⟨-, rfl⟩ | ⟨d, -, -, rfl⟩ | ⟨d, -, -, -, rfl⟩⟩ := execExecute_next hx
  all_goals exact of_row hpc trivial nofun

theorem execReadResponse {kind : RspKind} (h : Inv s) (hx : Machine.execReadResponse kind s = .next t) :
    PhaseMoves s t := by
  obtain ⟨x, hs, hp, -, ⟨-, rfl⟩ | ⟨-, rfl⟩⟩ := execReadResponse_next hx
  · obtain ⟨-, hsound⟩ := h.run_sound hs
    simp only [ExecRun.sound, hp] at hsound
    exact responseReturned hsound.1 _
  · exact of_pc_eq rfl

theorem execTransfer {d : Descriptor} (h : Inv s) (hx : Machine.execTransfer d s = .next t) : PhaseMoves s t := by
  obtain ⟨x, hs, hp, -, rfl⟩ := execTransfer_next hx
  obtain ⟨-, hsound⟩ := h.run_sound hs
  simp only [ExecRun.sound, hp] at hsound
  exact loopHead hsound.1

/-- Accesses and events leave the phase, and of the session operations EXECUTE and two of its sub-steps move it. -/
theorem exec {i : Instr} (h : Inv s) (hx : Machine.exec i s = .next t) : PhaseMoves s t := by
  by_cases hi : hostAccess i = true
  · exact of_pc_eq (hostAccess_next hi hx).sameSequencer.pc
  by_cases he : i.isEvent = true
  · exact of_pc_eq (event_next he hx).sameSequencer.pc
  cases i with
  | execute => exact execExecute hx
  | readResponse => exact execReadResponse h hx
  | transfer => exact execTransfer h hx
  | issue => obtain ⟨x, -, -, -, -, rfl⟩ := execIssue_next hx; exact of_pc_eq rfl
  | waitCompletion => obtain ⟨x, -, -, rfl⟩ := execWaitCompletion_next hx; exact of_pc_eq rfl
  | probe => obtain ⟨-, ⟨r, rfl⟩ | ⟨base, rfl⟩⟩ := execProbe_next hx <;> exact of_pc_eq rfl
  | setClock => obtain ⟨-, ⟨r, rfl⟩ | ⟨-, rfl⟩⟩ := execSetClock_next hx <;> exact of_pc_eq rfl
  | cardPresent => obtain ⟨-, rfl⟩ := execCardPresent_next hx; exact of_pc_eq rfl
  | writeProtected => obtain ⟨-, rfl⟩ := execWriteProtected_next hx; exact of_pc_eq rfl
  | _ => simp [hostAccess, he] at hi

end PhaseMoves

/-! ## Every step -/

/-- An access of EXECUTE is a register access of level L0 (R6). -/
theorem hostAccess_of_executeTodo {c : Config} {x : ExecRun} {buffer : Memory} {i : Instr}
    (h : executeTodo c x buffer = .access i) : hostAccess i = true := by
  unfold executeTodo at h
  cases hp : x.pos <;> simp only [hp] at h
  case moveWord =>
    unfold moveTodo at h
    split at h
    · cases h
    · split at h
      · split at h <;> cases h <;> rfl
      · cases h
  case writeBsize | writeDcon | callTransfer => split at h <;> cases h <;> rfl
  all_goals cases h <;> rfl

/-- An access of the sequencer is a register access of level L0 (R6). -/
theorem hostAccess_of_todo {s : State} {i : Instr} (h : todo s = .access i) : hostAccess i = true := by
  unfold todo at h
  split at h
  · cases h
  · exact hostAccess_of_executeTodo h
  · next pos _ => cases pos <;> cases h <;> rfl
  · next pos _ => cases pos <;> cases h; rfl

namespace PhaseMoves

variable {s t : State}

theorem takeTurn (h : Inv s) (ht : Machine.takeTurn s = .next t) : PhaseMoves s t := by
  obtain ⟨i, u, hi, hx, rfl⟩ | ⟨i, -, hx⟩ | ⟨-, rfl⟩ := takeTurn_next ht
  · have hsame := (hostAccess_next (hostAccess_of_todo hi) hx).sameSequencer
    exact (afterAccess (h.exec hx)).of_same_before hsame.pc hsame.config
  · exact exec h hx
  · exact silentStep h

theorem step (h : Inv s) (ht : Machine.step s = .next t) : PhaseMoves s t := by
  obtain ⟨u, hu, hstep⟩ := step_next ht
  have hbefore : Inv u ∧ u.pc = s.pc ∧ u.config = s.config := by
    obtain rfl | ⟨rest, rfl⟩ := hu
    · exact ⟨h, rfl, rfl⟩
    · exact ⟨h.setAgenda rest, rfl, rfl⟩
  obtain ⟨hinv, hpc, hconfig⟩ := hbefore
  refine of_same_before ?_ hpc hconfig
  obtain hturn | ⟨i, -, -, hx⟩ | ⟨c, rfl⟩ | ⟨g, rfl⟩ | ⟨offset, b, -, rfl⟩ := hstep
  · exact takeTurn hinv hturn
  · exact exec hinv hx
  all_goals exact of_pc_eq rfl

end PhaseMoves

/-- Settles O39: every step is a phase move. -/
theorem phaseChangesAreRowsOfTheTable : Obligations.PhaseChangesAreRowsOfTheTable := by
  intro s t h ht
  obtain ⟨hrow, htimeout⟩ := PhaseMoves.step h ht
  exact ⟨hrow, htimeout⟩

end Sys2Proof.Machine
end

section
/-! How the session operations start (R281, R282, R310, R320, R330, R331): on a machine where they may, what each does in its first
step; and the calls of the sub-steps of EXECUTE (R280, R290, R295, R300, R308). -/

namespace Sys2Proof.Machine

open Host

/-- On a ready machine every session operation may start. -/
theorem Ready.startRefusal {s : State} (h : Ready s) (needsController : Bool) :
    Machine.startRefusal needsController s = none := by
  obtain ⟨hs, hp, hc⟩ := h
  exact startRefusal_ready hs hp hc needsController

/-- Where no session operation runs, the session and the phase are Idle already. -/
theorem setSession_setPc_idle {s : State} (hs : s.session = .idle) (hp : s.pc = .idle) :
    (s.setSession .idle).setPc .idle = s := by
  rw [← hs, ← hp]; rfl

/-- An operation that ends in the step that starts it changes only the result. -/
theorem endSession_of_idle {s : State} (hs : s.session = .idle) (r : SessionResult) :
    s.endSession r = s.setResult (some r) := by
  rw [State.endSession, ← hs]; rfl

/-! ## EXECUTE (R281, R282, R133, R345) -/

theorem exec_execute_noData {cmd : Command} {s : State} (h : Ready s) :
    exec (.execute cmd none) s = .next (beginExecute cmd none 0 s) := by
  simp [exec, execExecute, h.startRefusal]

theorem exec_execute_valid {cmd : Command} {d : Descriptor} {s : State} (h : Ready s) (hcount : d.blockCount ≤ 2047)
    (hcontract : contract s.config cmd d = true) :
    exec (.execute cmd (some d)) s = .next (beginExecute cmd (some d) (totalBytes d) s) := by
  simp [exec, execExecute, h.startRefusal, Nat.not_lt.mpr hcount, hcontract]

theorem exec_execute_contractViolation {cmd : Command} {d : Descriptor} {s : State} (h : Ready s)
    (hcount : d.blockCount ≤ 2047) (hcontract : contract s.config cmd d = false) :
    exec (.execute cmd (some d)) s = .refused .contractViolation := by
  simp [exec, execExecute, h.startRefusal, Nat.not_lt.mpr hcount, hcontract]

theorem exec_execute_oversized {cmd : Command} {d : Descriptor} {s : State} (h : Ready s) (hcount : 2047 < d.blockCount) :
    exec (.execute cmd (some d)) s =
      .next (enterFailure .configurationError .returnFailure (newRun cmd (some d) 0) (s.setResult none)) := by
  simp [exec, execExecute, h.startRefusal, hcount]

/-- Settles O40: the start of EXECUTE is decided by the block count and then by the contract, and the failure it enters for
an oversized count returns with the next turn. -/
theorem executeValidatesFirst : Obligations.ExecuteValidatesFirst := by
  refine ⟨fun cmd s h => ⟨exec_execute_noData h, fun d hcount h4 hlength hwidth hblocks hsize hmax hdir => ?valid,
    fun d hcount hbad => ?violation⟩, fun cmd d s h hcount ha => ?oversized⟩
  case valid =>
    exact exec_execute_valid h hcount
      ((contract_iff s.config cmd d).mpr ⟨h4, hlength, hwidth, hblocks, hsize, hmax, hdir⟩)
  case violation =>
    refine exec_execute_contractViolation h hcount (Bool.eq_false_iff.mpr fun hcontract => ?_)
    obtain ⟨h4, hlength, hwidth, hblocks, hsize, hmax, hdir⟩ := (contract_iff s.config cmd d).mp hcontract
    obtain hbad | hbad | ⟨hne1, hne4⟩ | hbad | hbad | hbad | hbad := hbad
    · exact hbad h4
    · exact hbad hlength
    · exact hwidth.elim hne1 hne4
    · exact hblocks hbad
    · exact hsize hbad
    · exact Nat.not_lt.mpr hmax hbad
    · exact hdir hbad
  case oversized =>
    refine ⟨_, exec_execute_oversized h hcount, rfl, ?_⟩
    have hreturn := step_returnFailure (x := { newRun cmd (some d) 0 with pos := .returnFailure })
      (s := enterFailure .configurationError .returnFailure (newRun cmd (some d) 0) (s.setResult none)) rfl rfl rfl ha
    obtain ⟨hs, hp, -⟩ := h
    exact hreturn.trans (congrArg (fun u : State => Outcome.next (u.setResult _)) (setSession_setPc_idle hs hp))

/-! ## The sub-steps where EXECUTE stands at their calls -/

section
variable {x : ExecRun} {s : State} (hs : s.session = .execute x)
include hs

theorem exec_issue (hp : x.pos = .callIssue) : exec (.issue x.cmd x.data) s = .next (s.continueAt x .clearCsta) := by
  simp [exec, execIssue, hs, hp]

theorem exec_readResponse_none (hp : x.pos = .callReadResponse) (hk : x.cmd.kind = .none) :
    exec (.readResponse .none) s = .next (responseReturned .none x s) := by
  simp [exec, execReadResponse, hs, hp, hk]

theorem exec_readResponse_some (hp : x.pos = .callReadResponse) (hk : x.cmd.kind ≠ .none) :
    exec (.readResponse x.cmd.kind) s = .next (s.continueAt x .readRsp0) := by
  cases hkind : x.cmd.kind with
  | none => exact absurd hkind hk
  | short | long => simp [exec, execReadResponse, hs, hp, hkind]

theorem exec_transfer {d : Descriptor} (hp : x.pos = .callTransfer) (hd : x.data = some d) :
    exec (.transfer d) s = .next (loopHead { x with off := 0, rem := totalBytes d, i := 0 } s) := by
  simp [exec, execTransfer, hs, hp, hd]

theorem exec_waitCompletion (hp : x.pos = .callWait) :
    exec .waitCompletion s = .next (s.continueAt { x with n := s.config.donePollBound } .pollDsta) := by
  simp [exec, execWaitCompletion, hs, hp]

end

/-- READ_RESPONSE returned and there is no data (R284). -/
theorem responseReturned_noData {x : ExecRun} (h : x.data = none) (resp : Response) (s : State) :
    responseReturned resp x s = (s.continueAt { x with resp := resp } .finish).setPc .completionPhase := by
  simp [responseReturned, h]

/-- READ_RESPONSE returned and TRANSFER comes next. -/
theorem responseReturned_data {x : ExecRun} {d : Descriptor} (h : x.data = some d) (resp : Response) (s : State) :
    responseReturned resp x s = (s.continueAt { x with resp := resp } .callTransfer).setPc .dataPhase := by
  simp [responseReturned, h]

/-- The first iteration of the FIFO loop is counted under a DATA_LOOP_BOUND, unless it is 0 (R11). -/
theorem loopHead_first {x : ExecRun} {s : State} (hrem : x.rem ≠ 0) (hi : x.i = 0) (hb : s.config.dataLoopBound ≠ some 0) :
    loopHead x s = s.continueAt { x with i := if s.config.dataLoopBound = none then 0 else 1 } .readDsta := by
  cases hbound : s.config.dataLoopBound with
  | none => rw [loopHead_more hrem hbound, if_pos rfl, ← hi]
  | some bound =>
    rw [loopHead_count hrem hbound (fun h => hb (by rw [hbound, ← h, hi])), hi]
    rfl

/-- Settles O41: call by call. -/
theorem subStepsStartAtTheirCalls : Obligations.SubStepsStartAtTheirCalls := by
  intro x s hs
  refine ⟨exec_issue hs, exec_readResponse_some hs, fun hp hk hd => ?_, fun d hp hk hd => ?_,
    fun d hp hd htotal hb => ?_, exec_waitCompletion hs⟩
  · rw [exec_readResponse_none hs hp hk, responseReturned_noData hd]; rfl
  · rw [exec_readResponse_none hs hp hk, responseReturned_data hd]; rfl
  · rw [exec_transfer hs hp hd, loopHead_first htotal rfl hb]; rfl

/-! ## PROBE (R310, R346) -/

section
variable {binding : Binding} {s : State} (hs : s.session = .idle) (hp : s.pc = .idle)
include hs hp

theorem exec_probe_missingBase (hbase : binding.base = none) :
    exec (.probe binding) s = .next (s.setResult (some (.probe .missingBase))) := by
  simp [exec, execProbe, startRefusal_probe hs hp, hbase, endSession_of_idle hs]

theorem exec_probe_clockUnavailable {base : Nat} (hbase : binding.base = some base) (hclock : s.clock.available = false) :
    exec (.probe binding) s = .next (s.setResult (some (.probe .clockUnavailable))) := by
  simp [exec, execProbe, startRefusal_probe hs hp, hbase, hclock, endSession_of_idle hs]

theorem exec_probe_starts {base : Nat} (hbase : binding.base = some base) (hclock : s.clock.available = true) :
    exec (.probe binding) s = .next ((s.setClock { s.clock with enabled := true }).startSession
      (.probe binding ⟨binding.clockName⟩ base .softwareReset)) := by
  simp [exec, execProbe, startRefusal_probe hs hp, hbase, hclock]

end

/-- Settles O42: the three ways PROBE starts. -/
theorem probeChecksBaseThenClock : Obligations.ProbeChecksBaseThenClock := by
  intro binding s hs hp
  exact ⟨exec_probe_missingBase hs hp, fun base => exec_probe_clockUnavailable hs hp,
    fun base => exec_probe_starts hs hp⟩

/-! ## SET_CLOCK (R320, R134) -/

section
variable {target : Nat} {s : State} (h : Ready s)
include h

theorem exec_setClock_zero : exec (.setClock 0) s = .next (s.setResult (some (.setClock .configurationError))) := by
  simp [exec, execSetClock, h.startRefusal, endSession_of_idle h.1]

theorem exec_setClock_starts (htarget : target ≠ 0) (hmax : dividerFor s.clock.rate target ≤ s.config.layout.pre.max) :
    exec (.setClock target) s = .next (s.startSession (.setClock (dividerFor s.clock.rate target) .writePre)) := by
  simp [exec, execSetClock, h.startRefusal, htarget, Nat.not_lt.mpr hmax]

theorem exec_setClock_tooLarge (htarget : target ≠ 0) (hmax : s.config.layout.pre.max < dividerFor s.clock.rate target) :
    exec (.setClock target) s = .refused .dividerTooLarge := by
  simp [exec, execSetClock, h.startRefusal, htarget, hmax]

end

/-- Settles O43: the three ways SET_CLOCK starts; the quotient of the statement is `dividerFor`. -/
theorem setClockComputesTheDivider : Obligations.SetClockComputesTheDivider := by
  intro target s h
  exact ⟨fun hzero => hzero ▸ exec_setClock_zero h, exec_setClock_starts h, exec_setClock_tooLarge h⟩

/-! ## CARD_PRESENT and WRITE_PROTECTED (R330, R331) -/

/-- Settles O44: each query ends in its first step. -/
theorem cardQueriesAnswerAtOnce : Obligations.CardQueriesAnswerAtOnce := by
  refine ⟨fun c => ⟨rfl, rfl⟩, fun s h => ⟨?_, ?_⟩⟩
  · simp [exec, execCardPresent, h.startRefusal, endSession_of_idle h.1]
  · simp [exec, execWriteProtected, h.startRefusal, endSession_of_idle h.1]

end Sys2Proof.Machine
end

section
/-! Whole runs of PROBE (R310, R381, R385, R389) and of SET_CLOCK (R320, R322, R323): one step for each access of their programs. -/

namespace Sys2Proof.Machine

open Host

/-- A run goes on with the state after its first step. -/
theorem run_step {k : Nat} {s t : State} {r : Result} (h : step s = .next t) (hrun : run k t = r) :
    run (k + 1) s = r := (run_succ k h).trans hrun

/-! ## The program of PROBE (R310) -/

section
variable {binding : Binding} {handle : ClockHandle} {base : Nat} {s : State}

/-- A step of PROBE that performs an access. -/
theorem step_probe_access {pos : ProbePos} {i : Instr} {u : State} (hs : s.session = .probe binding handle base pos)
    (ha : s.agenda = []) (ht : probeTodo s.config pos = .access i) (he : exec i s = .next u)
    (hu : u.session = s.session) : step s = .next (afterProbeAccess binding handle base pos u) := by
  have hi : todo s = .access i := by simpa only [todo, hs] using ht
  have hafter : afterAccess u = afterProbeAccess binding handle base pos u := by simp only [afterAccess, hu, hs]
  rw [step_empty ha, takeTurn_access hi he, hafter]

theorem step_probe_softwareReset (hc : Admissible s.config) (hs : s.session = .probe binding handle base .softwareReset)
    (ha : s.agenda = []) :
    step s = .next ((softwareReset s).setSession (.probe binding handle base .settle)) := by
  have hreset : bitAt (bitWord s.config.layout.con.sdreset true) s.config.layout.con.sdreset = true :=
    bitAt_bitWord (flag_inside hc.con (by simp [Config.ConLayout.fields])) true
  exact step_probe_access hs ha rfl (exec_wrCon_reset hreset) rfl

/-- The settle delay after the reset is one turn (log entry 16). -/
theorem step_probe_settle (hs : s.session = .probe binding handle base .settle) (ha : s.agenda = []) :
    step s = .next (s.setSession (.probe binding handle base .writeDtimer)) := by
  rw [step_empty ha, takeTurn_silent (by simp only [todo, hs, probeTodo])]
  simp only [silentStep, hs]

theorem step_probe_writeDtimer (hc : Admissible s.config) (hs : s.session = .probe binding handle base .writeDtimer)
    (ha : s.agenda = []) :
    step s = .next ((s.setRegs { s.regs with dtimer := s.config.layout.dtimer.clip s.config.dtimerInit }).setSession
      (.probe binding handle base .writeBsize)) := by
  have hget := get_put (hc.dtimer.inside _ List.mem_cons_self) s.config.dtimerInit
  rw [← hget]
  exact step_probe_access hs ha rfl rfl rfl

/-- BSIZE takes a write while the data engine is idle (R171). -/
theorem execWrBsize_idle (hde : s.de = .idle) (v : Word) :
    execWrBsize v s = .next (s.setRegs { s.regs with bsize := s.config.layout.bsize.get v }) := by
  simp [execWrBsize, hde, State.updateRegs]

theorem step_probe_writeBsize (hc : Admissible s.config) (hs : s.session = .probe binding handle base .writeBsize)
    (ha : s.agenda = []) (hde : s.de = .idle) :
    step s = .next ((s.setRegs { s.regs with bsize := s.config.layout.bsize.clip s.config.bsizeInit }).setSession
      (.probe binding handle base .writeImsk)) := by
  have hget := get_put (hc.bsize.inside _ List.mem_cons_self) s.config.bsizeInit
  rw [← hget]
  exact step_probe_access hs ha rfl (execWrBsize_idle hde _) rfl

theorem step_probe_writeImsk (hs : s.session = .probe binding handle base .writeImsk) (ha : s.agenda = []) :
    step s = .next ((s.setRegs { s.regs with imsk := 0#32 }).setSession (.probe binding handle base .configure)) :=
  step_probe_access hs ha rfl rfl rfl

/-- The last access selects the clock type, empties the FIFO, and creates ControllerState. -/
theorem step_probe_configure (hc : Admissible s.config) (hs : s.session = .probe binding handle base .configure)
    (ha : s.agenda = []) (hde : s.de = .idle) :
    step s = .next ((((s.setRegs { s.regs with clktype := s.config.clktypeInit }).setFifo []).setCtrl
      (some ⟨handle, none, binding.cdRef, binding.wpRef, base⟩)).endSession (.probe .ok)) := by
  have hexec : exec (.wrCon (probeConWord s.config)) s =
      .next ((s.setRegs { s.regs with clktype := s.config.clktypeInit }).setFifo []) := by
    rw [exec_wrCon_eq_decodeCn, probeConWord, decodeCn_conCfgWord hc.con]
    have hquiet : ∀ dir left, s.de ≠ .active dir left := by simp [hde]
    exact configure_allowed (clktype := s.config.clktypeInit) (fiforeset := true) (.inr hquiet)
  exact step_probe_access hs ha rfl hexec rfl

/-- The registers after a complete PROBE (R385). -/
def Regs.afterProbe (c : Config) : Regs :=
  { Regs.afterReset c.reset with
    clktype := c.clktypeInit
    dtimer := c.layout.dtimer.clip c.dtimerInit
    bsize := c.layout.bsize.clip c.bsizeInit
    imsk := 0#32 }

/-- PROBE from its first access to its end. -/
theorem run_probe (hc : Admissible s.config) (hs : s.session = .probe binding handle base .softwareReset)
    (ha : s.agenda = []) :
    run 6 s = .next ((((softwareReset s).setRegs (Regs.afterProbe s.config)).setCtrl
      (some ⟨handle, none, binding.cdRef, binding.wpRef, base⟩)).endSession (.probe .ok)) := by
  refine run_step (step_probe_softwareReset hc hs ha) ?_
  refine run_step (step_probe_settle rfl ha) ?_
  refine run_step (step_probe_writeDtimer hc rfl ha) ?_
  refine run_step (step_probe_writeBsize hc rfl ha rfl) ?_
  refine run_step (step_probe_writeImsk rfl ha) ?_
  refine run_step (step_probe_configure hc rfl ha rfl) ?_
  simp only [run, softwareReset, State.endSession, State.setRegs, State.setFifo, State.setCe, State.setDe,
    State.setCtrl, State.setSession, State.setResult, Regs.afterProbe]

end

/-- Settles O46: the software reset forgets what the block held, and the accesses after it are those of `run_probe`. -/
theorem probeReachesTheInitialState : Obligations.ProbeReachesTheInitialState := by
  intro binding base s hc hs hp ha hbase hclock
  have hrun := run_probe (s := (s.setClock { s.clock with enabled := true }).startSession
    (.probe binding ⟨binding.clockName⟩ base .softwareReset)) hc rfl ha
  refine ⟨_, _, exec_probe_starts hs hp hbase hclock, (core_run_eq 6 _).trans hrun,
    ?initial, by simp, by simp, by simp, by simp, fun href => ?reference⟩
  case initial => constructor <;> simp [Regs.afterProbe, hp]
  case reference =>
    change Regs.afterProbe s.config = _
    rw [href]
    decide

/-! ## The program of SET_CLOCK (R320, R323) -/

section
variable {divider : Nat} {s : State}

theorem step_setClock_writePre (hc : Admissible s.config) (hs : s.session = .setClock divider .writePre)
    (ha : s.agenda = []) (hquiet : EnginesQuiet s) (hmax : divider ≤ s.config.layout.pre.max) :
    step s = .next ((s.setRegs { s.regs with div := BitVec.ofNat 32 divider }).setSession (.setClock divider .settle)) := by
  have hput : s.config.layout.pre.get (s.config.layout.pre.put (BitVec.ofNat 32 divider)) = BitVec.ofNat 32 divider := by
    rw [get_put (hc.pre.inside _ List.mem_cons_self), clip_ofNat hmax]
  have htodo : todo s = .access (.wrPre (s.config.layout.pre.put (BitVec.ofNat 32 divider))) := by
    simp only [todo, hs, clockTodo]
  rw [step_empty ha, takeTurn_access htodo (execWrPre_quiet hquiet _), hput]
  simp only [afterAccess, State.setRegs_session, hs]

/-- The settle delay is the turn that stores the divider (log entries 16 and 28). -/
theorem step_setClock_settle {c : ControllerState} (hs : s.session = .setClock divider .settle) (ha : s.agenda = [])
    (hctrl : s.ctrl = some c) :
    step s = .next ((s.setCtrl (some { c with divider := some divider })).endSession (.setClock .ok)) := by
  rw [step_empty ha, takeTurn_silent (by simp only [todo, hs, clockTodo])]
  simp only [silentStep, hs, hctrl, Option.map_some]

end

/-- Settles O47: the start, the write of PRE and the settle turn. -/
theorem setClockWritesThePrescaler : Obligations.SetClockWritesThePrescaler := by
  intro target c s hc hready hctrl hquiet ha htarget hmax
  refine ⟨_, exec_setClock_starts hready htarget hmax, (core_run_eq 2 _).trans ?_⟩
  refine run_step (step_setClock_writePre hc rfl ha hquiet hmax) ?_
  refine run_step (step_setClock_settle rfl ha hctrl) ?_
  have hidle : s.setSession .idle = s := by rw [← hready.1]; rfl
  exact congrArg (fun u : State => Outcome.next (((u.setRegs _).setCtrl _).setResult _)) hidle

/-! ## The divider (R321, R322, R123) -/

/-- The divider is the least `d` with `rate / (d + 1)` not above the target. -/
theorem dividerFor_le_iff {rate target d : Nat} (h : target ≠ 0) :
    dividerFor rate target ≤ d ↔ rate ≤ target * (d + 1) := by
  rw [dividerFor, ← Nat.ceilDiv_eq_add_pred_div, Nat.sub_le_iff_le_add,
    ceilDiv_le_iff_le_mul (Nat.pos_of_ne_zero h)]

/-- Settles O48, from `dividerFor_le_iff` at the divider itself, at any other and at 0. -/
theorem dividerIsTheSmallestThatFits : Obligations.DividerIsTheSmallestThatFits := by
  intro rate target h
  exact ⟨(dividerFor_le_iff h).mp le_rfl, fun d => (dividerFor_le_iff h).mpr,
    fun hrate => Nat.le_zero.mp ((dividerFor_le_iff h).mpr (by rwa [Nat.zero_add, Nat.mul_one]))⟩

end Sys2Proof.Machine
end

section
/-! The accesses of ISSUE (R290, R102): one turn of the sequencer for each, as an equation, and the run of all of them on a machine
whose engines are idle. -/

namespace Sys2Proof.Machine

open Host

/-! ## Turns of EXECUTE -/

section
variable {x : ExecRun} {s : State} (hs : s.session = .execute x)
include hs

/-- A turn of EXECUTE that performs an access. -/
theorem takeTurn_execute_access {i : Instr} {u : State} (ht : executeTodo s.config x s.buffer = .access i)
    (he : exec i s = .next u) (hu : u.session = s.session) : takeTurn s = .next (afterExecuteAccess u.hostWord x u) := by
  rw [takeTurn_access (by rw [todo_execute hs]; exact ht) he, afterAccess_execute (hu.trans hs)]

/-- A turn of EXECUTE that calls a sub-step. -/
theorem takeTurn_execute_call {i : Instr} (ht : executeTodo s.config x s.buffer = .call i) : takeTurn s = exec i s :=
  takeTurn_call (by rw [todo_execute hs]; exact ht)

/-! ## ISSUE access by access -/

theorem takeTurn_callIssue (hp : x.pos = .callIssue) : takeTurn s = .next (s.continueAt x .clearCsta) := by
  rw [takeTurn_execute_call (i := .issue x.cmd x.data) hs (by simp only [executeTodo, hp]), exec_issue hs hp]

theorem takeTurn_clearCsta (hp : x.pos = .clearCsta) (hc : Admissible s.config) :
    takeTurn s = .next ((s.setRegs { s.regs with csta := ⟨false, false, false⟩ }).continueAt x .clearDsta) := by
  rw [takeTurn_execute_access hs (by simp only [executeTodo, hp]) (exec_wrCsta allOnes s) rfl,
    clearCsta_covers hc.csta (allOnes_covers _)]
  simp only [afterExecuteAccess, hp]

theorem takeTurn_clearDsta (hp : x.pos = .clearDsta) (hc : Admissible s.config) :
    takeTurn s =
      .next ((s.setRegs { s.regs with dsta := ⟨false, false, false, false, false⟩ }).continueAt x .clearFsta) := by
  rw [takeTurn_execute_access hs (by simp only [executeTodo, hp]) (exec_wrDsta allOnes s) rfl,
    clearDsta_covers hc.dsta (allOnes_covers _)]
  simp only [afterExecuteAccess, hp]

theorem takeTurn_clearFsta (hp : x.pos = .clearFsta) :
    takeTurn s = .next (s.continueAt x (if x.data.isSome then .writeBsize else .writeCarg)) := by
  rw [takeTurn_execute_access hs (by simp only [executeTodo, hp]) (exec_wrFsta allOnes s) rfl]
  simp only [afterExecuteAccess, hp]

theorem takeTurn_writeBsize {d : Descriptor} (hp : x.pos = .writeBsize) (hc : Admissible s.config) (hd : x.data = some d)
    (hmax : d.blockSize ≤ s.config.layout.bsize.max) (hde : s.de = .idle) :
    takeTurn s = .next ((s.setRegs { s.regs with bsize := BitVec.ofNat 32 d.blockSize }).continueAt x .writeDcon) := by
  have hput : s.config.layout.bsize.get (s.config.layout.bsize.put (BitVec.ofNat 32 d.blockSize)) =
      BitVec.ofNat 32 d.blockSize := by
    rw [get_put (hc.bsize.inside _ List.mem_cons_self), clip_ofNat hmax]
  rw [takeTurn_execute_access (i := .wrBsize (s.config.layout.bsize.put (BitVec.ofNat 32 d.blockSize))) hs
    (by simp only [executeTodo, hp, hd]) (execWrBsize_idle hde _) rfl, hput]
  simp only [afterExecuteAccess, hp]

theorem takeTurn_writeDcon {d : Descriptor} (hp : x.pos = .writeDcon) (hc : Admissible s.config) (hd : x.data = some d)
    (hcount : d.blockCount ≤ 2047) (hblocks : d.blockCount ≠ 0) (hde : s.de = .idle) (hsize : s.regs.bsize ≠ 0#32) :
    takeTurn s = .next (((s.setRegs { s.regs with
      dcon := armingFields s.config.layout.dcon d.direction (BitVec.ofNat 11 d.blockCount) (decide (d.busWidth = 4)) }).setDe
        (.armed d.direction (s.regs.bsize.toNat * d.blockCount))).continueAt x .writeCarg) := by
  rw [takeTurn_execute_access (i := .wrDcon (dataControlWord s.config.layout.dcon d)) hs
    (by simp only [executeTodo, hp, hd]) (execWrDcon_dataControlWord hc hcount hblocks hde hsize) rfl]
  simp only [afterExecuteAccess, hp]

theorem takeTurn_writeCarg (hp : x.pos = .writeCarg) :
    takeTurn s = .next ((s.setRegs { s.regs with carg := x.cmd.argument }).continueAt x .writeCcon) := by
  rw [takeTurn_execute_access (i := .wrCarg x.cmd.argument) (u := s.setRegs { s.regs with carg := x.cmd.argument }) hs
    (by simp only [executeTodo, hp]) rfl rfl]
  simp only [afterExecuteAccess, hp]

theorem takeTurn_writeCcon (hp : x.pos = .writeCcon) (hc : Admissible s.config) (hce : s.ce = .idle) :
    takeTurn s = .next (((storeCcon ⟨x.cmd.index, true, decide (x.cmd.kind ≠ .none), decide (x.cmd.kind = .long)⟩ s).setCe
      (.sending x.cmd.index s.regs.carg (decide (x.cmd.kind ≠ .none)) (decide (x.cmd.kind = .long)))).continueAt
        { x with n := s.config.cmdPollBound } .pollCsta) := by
  rw [takeTurn_execute_access (i := .wrCcon (commandWord s.config.layout.ccon x.cmd)) hs
    (by simp only [executeTodo, hp]) (execWrCcon_commandWord hc hce) rfl]
  simp only [afterExecuteAccess, hp]
  rfl

end

/-! ## The run up to the poll -/

/-- With nothing on the agenda a run goes on with the state after a turn. -/
theorem run_turn {k : Nat} {s t : State} {r : Result} (ha : s.agenda = []) (h : takeTurn s = .next t)
    (hrun : run k t = r) : run (k + 1) s = r := run_step ((step_empty ha).trans h) hrun

/-- What the validation of a descriptor says of its block size and count (R133, R281). -/
theorem ExecRun.validated.sizes {x : ExecRun} {c : Config} {d : Descriptor} (h : x.validated c) (hd : x.data = some d) :
    d.blockCount ≤ 2047 ∧ d.blockCount ≠ 0 ∧ d.blockSize ≠ 0 ∧ d.blockSize ≤ c.layout.bsize.max := by
  obtain ⟨hcount, hcontract⟩ := h d hd
  obtain ⟨-, -, -, hblocks, hsize, hmax, -⟩ := (contract_iff c x.cmd d).mp hcontract
  exact ⟨hcount, hblocks, hsize, hmax⟩

/-- A block size that fits the field of BSIZE is a 32-bit number. -/
theorem toNat_blockSize {c : Config} (hc : Admissible c) {n : Nat} (h : n ≤ c.layout.bsize.max) :
    (BitVec.ofNat 32 n).toNat = n := by
  have hwidth : c.layout.bsize.lo + c.layout.bsize.width ≤ 32 := hc.bsize.inside _ List.mem_cons_self
  have hpow : 2 ^ c.layout.bsize.width ≤ 2 ^ 32 := Nat.pow_le_pow_right (by decide) (by omega)
  have hpos : 0 < 2 ^ c.layout.bsize.width := Nat.two_pow_pos _
  rw [Field.max] at h
  rw [BitVec.toNat_ofNat, Nat.mod_eq_of_lt (by omega)]

/-- Settles O60: the call and the three clears, then BSIZE and DCON, then CARG and CCON. -/
theorem issueArmsDataThenCommand : Obligations.IssueArmsDataThenCommand := by
  intro x d s h hs hp hd hce hde ha cleared dataArmed bothArmed
  have hc := h.configAdmissible
  obtain ⟨-, hsound⟩ := h.run_sound hs
  simp only [ExecRun.sound, hp] at hsound
  obtain ⟨-, hv, -⟩ := hsound
  obtain ⟨hcount, hblocks, hsize, hmax⟩ := hv.sizes hd
  have htoNat := toNat_blockSize hc hmax
  have hne : BitVec.ofNat 32 d.blockSize ≠ 0#32 := fun h0 => hsize (by rw [← htoNat, h0]; rfl)
  have hclears : run 4 s = .next ((s.setRegs cleared).setSession (.execute { x with pos := .writeBsize })) := by
    refine run_turn ha (takeTurn_callIssue hs hp) ?_
    refine run_turn ha (takeTurn_clearCsta rfl rfl hc) ?_
    refine run_turn ha (takeTurn_clearDsta rfl rfl hc) ?_
    refine run_turn ha (takeTurn_clearFsta rfl rfl) ?_
    simp only [run, hd, Option.isSome_some, if_true, State.continueAt, State.setRegs, State.setSession, cleared]
  have hdata : run 2 ((s.setRegs cleared).setSession (.execute { x with pos := .writeBsize })) =
      .next (((s.setRegs dataArmed).setDe (.armed d.direction (totalBytes d))).setSession
        (.execute { x with pos := .writeCarg })) := by
    refine run_turn ha (takeTurn_writeBsize (x := { x with pos := .writeBsize }) rfl rfl hc hd hmax hde) ?_
    refine run_turn ha (takeTurn_writeDcon (x := { x with pos := .writeDcon }) rfl rfl hc hd hcount hblocks hde hne) ?_
    simp only [run, State.continueAt, State.setRegs, State.setSession, State.setDe, htoNat, cleared, dataArmed, totalBytes]
  have hcommand : run 2 (((s.setRegs dataArmed).setDe (.armed d.direction (totalBytes d))).setSession
        (.execute { x with pos := .writeCarg })) =
      .next ((((s.setRegs bothArmed).setDe (.armed d.direction (totalBytes d))).setCe
        (.sending x.cmd.index x.cmd.argument (decide (x.cmd.kind ≠ .none)) (decide (x.cmd.kind = .long)))).setSession
          (.execute { x with n := s.config.cmdPollBound, pos := .pollCsta })) := by
    refine run_turn ha (takeTurn_writeCarg rfl rfl) ?_
    refine run_turn ha (takeTurn_writeCcon rfl rfl hc hce) ?_
    simp only [run, storeCcon, State.continueAt, State.setRegs, State.setSession, State.setDe, State.setCe, dataArmed,
      bothArmed]
  have hsix := (run_add 4 2 hclears).trans hdata
  exact ⟨(core_run_eq 4 s).trans hclears, (core_run_eq 6 s).trans hsix,
    (core_run_eq 8 s).trans ((run_add 6 2 hsix).trans hcommand)⟩

end Sys2Proof.Machine
end

section
/-! The two polls of EXECUTE: the command-status poll of ISSUE (R290, R291, R342) and the poll of WAIT_COMPLETION (R308, R344, R398).
Each read tests the flags of the moment, and what comes next is decided by them and the count. -/

namespace Sys2Proof.Machine

open Host

/-- Where a failure of EXECUTE stands next: at its return, or at the zero write of DCON (R11). -/
theorem failExecute_eq (why : Failure) (x : ExecRun) (s : State) :
    failExecute why x s = (s.continueAt x (if s.config.clearDconOnFailure = true ∧ x.data.isSome = true then .clearDcon
      else .returnFailure)).setPc (.failed why) := by
  simp only [failExecute, enterFailure, Bool.and_eq_true]

/-- A failure that goes straight to its return ends EXECUTE with the next turn (R352, R358). -/
theorem step_failExecute {x : ExecRun} {s : State} (h : s.config.clearDconOnFailure = false ∨ x.data = none)
    (why : Failure) (ha : s.agenda = []) :
    step (failExecute why x s) =
      .next (((s.setSession .idle).setResult (some (.execute ⟨.failure why, x.resp, x.rem⟩))).setPc .idle) := by
  rw [failExecute_return h]
  exact step_returnFailure (x := { x with pos := .returnFailure }) rfl rfl rfl ha

/-- EXECUTE at the position where it stands already. -/
theorem continueAt_self {x : ExecRun} {pos : ExecPos} (hp : x.pos = pos) (s : State) :
    s.continueAt x pos = s.setSession (.execute x) := by
  subst hp; rfl

/-- The state that runs an operation is that state with the operation in its session. -/
theorem setSession_self {s : State} {op : Session} (hs : s.session = op) : s.setSession op = s := by
  subst hs; rfl

/-! ## The command poll -/

/-- The word a read of CSTA returns. -/
def State.cstaRead (s : State) : Word :=
  mergeDraw (maskOf s.config.layout.csta.fields) (cstaWord s.config.layout.csta s.ce s.regs.csta) (Config.freeWord s.draws)

/-- The flag of CSTA that a command of a kind waits for (R290). -/
def expectedFlag (kind : RspKind) (f : CstaFlags) : Bool := if kind = .none then f.cmdsent else f.rspfin

/-- The word read has the flags of the moment (R160). -/
theorem cstaRead_bits {s : State} (hc : Admissible s.config) :
    bitAt s.cstaRead s.config.layout.csta.rspfin = s.regs.csta.rspfin ∧
    bitAt s.cstaRead s.config.layout.csta.cmdtimeout = s.regs.csta.cmdtimeout ∧
    bitAt s.cstaRead s.config.layout.csta.cmdsent = s.regs.csta.cmdsent :=
  (csta_read_bits hc.csta s.ce s.regs.csta (Config.freeWord s.draws)).2

theorem expectedBit_cstaRead {s : State} (hc : Admissible s.config) (kind : RspKind) :
    expectedBit s.config.layout.csta kind s.cstaRead = expectedFlag kind s.regs.csta := by
  obtain ⟨hrspfin, -, hcmdsent⟩ := cstaRead_bits hc
  cases kind with
  | none => exact hcmdsent
  | short | long => exact hrspfin

/-- The state after a host read that returned a word with drawn bits. -/
def State.afterRead (s : State) (v : Word) : State := (s.setHostWord v).setDraws (s.draws + 1)

@[simp] theorem State.afterRead_config (s : State) (v : Word) : (s.afterRead v).config = s.config := rfl
@[simp] theorem State.afterRead_agenda (s : State) (v : Word) : (s.afterRead v).agenda = s.agenda := rfl

/-- One read of the command poll: the expected flag, then the timeout flag, then the count (R290 step 4, R291). -/
theorem step_pollCsta {x : ExecRun} {s : State} (hc : Admissible s.config) (hs : s.session = .execute x)
    (hp : x.pos = .pollCsta) (ha : s.agenda = []) :
    step s = .next (
      if expectedFlag x.cmd.kind s.regs.csta = true then
        (s.afterRead s.cstaRead).continueAt { x with csta := s.cstaRead } .clearConsumed
      else if s.regs.csta.cmdtimeout = true then
        failExecute .commandTimeout { x with csta := s.cstaRead, r := some .timedOut } (s.afterRead s.cstaRead)
      else if x.n - 1 = 0 then
        failExecute .commandTimeout { x with csta := s.cstaRead, n := x.n - 1, r := some .timedOut }
          (s.afterRead s.cstaRead)
      else (s.afterRead s.cstaRead).continueAt { x with csta := s.cstaRead, n := x.n - 1 } .pollCsta) := by
  obtain ⟨-, htimeout, -⟩ := cstaRead_bits hc
  rw [step_empty ha, takeTurn_execute_access (i := .rdCsta) (u := s.afterRead s.cstaRead) hs
    (by simp only [executeTodo, hp]) rfl rfl, ← expectedBit_cstaRead hc, ← htimeout]
  simp only [afterExecuteAccess, hp]
  rfl

section
variable {x : ExecRun} {s : State} (hc : Admissible s.config) (hs : s.session = .execute x) (hp : x.pos = .pollCsta)
  (ha : s.agenda = [])
include hc hs hp ha

theorem step_pollCsta_seen (hseen : expectedFlag x.cmd.kind s.regs.csta = true) :
    step s = .next ((s.afterRead s.cstaRead).continueAt { x with csta := s.cstaRead } .clearConsumed) := by
  rw [step_pollCsta hc hs hp ha, if_pos hseen]

variable (hnot : expectedFlag x.cmd.kind s.regs.csta = false)
include hnot

theorem step_pollCsta_timedOut (hout : s.regs.csta.cmdtimeout = true) :
    step s = .next (failExecute .commandTimeout { x with csta := s.cstaRead, r := some .timedOut }
      (s.afterRead s.cstaRead)) := by
  rw [step_pollCsta hc hs hp ha, if_neg (Bool.eq_false_iff.mp hnot), if_pos hout]

variable (hout : s.regs.csta.cmdtimeout = false)
include hout

theorem step_pollCsta_last (hn : x.n ≤ 1) :
    step s = .next (failExecute .commandTimeout { x with csta := s.cstaRead, n := 0, r := some .timedOut }
      (s.afterRead s.cstaRead)) := by
  have h0 : x.n - 1 = 0 := by omega
  rw [step_pollCsta hc hs hp ha, if_neg (Bool.eq_false_iff.mp hnot), if_neg (Bool.eq_false_iff.mp hout), if_pos h0, h0]

theorem step_pollCsta_again (hn : 1 < x.n) :
    step s = .next ((s.afterRead s.cstaRead).setSession (.execute { x with csta := s.cstaRead, n := x.n - 1 })) := by
  rw [step_pollCsta hc hs hp ha, if_neg (Bool.eq_false_iff.mp hnot), if_neg (Bool.eq_false_iff.mp hout),
    if_neg (by omega), continueAt_self (by exact hp)]

end

/-- Settles O49: the four cases of `step_pollCsta`. -/
theorem commandPollTestsInOrder : Obligations.CommandPollTestsInOrder := by
  intro x s hc hs hp ha l
  obtain ⟨hrspfin, htimeout, hcmdsent⟩ := cstaRead_bits hc
  refine ⟨s.cstaRead, hrspfin, htimeout, hcmdsent, step_pollCsta_seen hc hs hp ha, fun hnot hout => ?out,
    fun hnot hout hn => ?last, step_pollCsta_again hc hs hp ha⟩
  case out => rw [step_pollCsta_timedOut hc hs hp ha hnot hout, failExecute_eq]; rfl
  case last => rw [step_pollCsta_last hc hs hp ha hnot hout hn, failExecute_eq]; rfl

/-- The state after `k` reads of a poll that saw nothing: the last host read returned `w`, the sequencer holds `v`. -/
def State.afterPolls (s : State) (x : ExecRun) (k : Nat) (w v : Word) : State :=
  ((s.setHostWord w).setDraws (s.draws + k)).setSession (.execute { x with csta := v, n := x.n - k })

@[simp] theorem State.afterPolls_config (s : State) (x : ExecRun) (k : Nat) (w v : Word) :
    (s.afterPolls x k w v).config = s.config := rfl
@[simp] theorem State.afterPolls_agenda (s : State) (x : ExecRun) (k : Nat) (w v : Word) :
    (s.afterPolls x k w v).agenda = s.agenda := rfl

/-- While neither flag is set the poll goes on until one read is left. -/
theorem commandPoll_goes_on {x : ExecRun} {s : State} (hc : Admissible s.config) (hs : s.session = .execute x)
    (hp : x.pos = .pollCsta) (ha : s.agenda = []) (hnot : expectedFlag x.cmd.kind s.regs.csta = false)
    (hout : s.regs.csta.cmdtimeout = false) (k : Nat) (hk : k < x.n) :
    ∃ w v, run k s = .next (s.afterPolls x k w v) := by
  induction k with
  | zero => exact ⟨s.hostWord, x.csta, congrArg Outcome.next (setSession_self hs).symm⟩
  | succ k ih =>
    obtain ⟨w, v, hrun⟩ := ih (Nat.lt_of_succ_lt hk)
    have hstep := step_pollCsta_again (s := s.afterPolls x k w v) hc rfl hp ha hnot hout (show 1 < x.n - k by omega)
    refine ⟨(s.afterPolls x k w v).cstaRead, (s.afterPolls x k w v).cstaRead, ?_⟩
    rw [run_add k 1 hrun, run_one hstep]
    simp only [State.afterRead, State.afterPolls, State.setHostWord, State.setDraws, State.setSession, Nat.sub_sub,
      Nat.add_assoc]

/-- Settles O50: the reads of `commandPoll_goes_on`, the last of which fails, and the return. -/
theorem commandPollGivesUpAfterItsBound : Obligations.CommandPollGivesUpAfterItsBound := by
  intro x s h hs hp ha hn hclear hout hnot
  have hc := h.configAdmissible
  have hreads := commandPoll_goes_on hc hs hp ha hnot hout
  obtain ⟨-, hsound⟩ := h.run_sound hs
  simp only [ExecRun.sound, hp] at hsound
  obtain ⟨-, -, hrem, hresp⟩ := hsound
  refine ⟨fun k hk => ?reads, ?fails⟩
  case reads =>
    obtain ⟨w, v, hrun⟩ := hreads k hk
    exact ⟨_, v, (core_run_eq k s).trans hrun, rfl, rfl⟩
  case fails =>
    obtain ⟨w, v, hrun⟩ := hreads (x.n - 1) (by omega)
    have hstep := step_pollCsta_last (s := s.afterPolls x (x.n - 1) w v) hc rfl hp ha hnot hout
      (show x.n - (x.n - 1) ≤ 1 by omega)
    refine ⟨_, (s.afterPolls x (x.n - 1) w v).cstaRead, (core_run_eq _ s).trans ?_, rfl⟩
    rw [show x.n + 1 = (x.n - 1) + 2 by omega, run_add _ 2 hrun]
    refine run_step hstep ((run_one (step_failExecute (by simpa using hclear) .commandTimeout (by simp [ha]))).trans ?_)
    simp only [State.afterRead, State.afterPolls, State.setHostWord, State.setDraws, State.setSession, State.setResult,
      State.setPc, hrem, hresp, show s.draws + (x.n - 1) + 1 = s.draws + x.n by omega]
    rfl

/-! ## The completion poll -/

/-- The word a read of DSTA returns. -/
def State.dstaRead (s : State) : Word :=
  mergeDraw (maskOf s.config.layout.dsta.fields) (dstaWord s.config.layout.dsta s.regs.dsta) (Config.freeWord s.draws)

/-- The word read has the flags of the moment that the poll tests (R177). -/
theorem dstaRead_bits {s : State} (hc : Admissible s.config) :
    bitAt s.dstaRead s.config.layout.dsta.xferfinish = s.regs.dsta.xferfinish ∧
    bitAt s.dstaRead s.config.layout.dsta.datatimeout = s.regs.dsta.datatimeout := by
  obtain ⟨hfinish, htimeout, -⟩ := dsta_read_bits hc.dsta s.regs.dsta (Config.freeWord s.draws)
  exact ⟨hfinish, htimeout⟩

/-- One read of the completion poll: XFERFINISH, DATATIMEOUT, count (R308). -/
theorem takeTurn_pollDsta {x : ExecRun} {s : State} (hs : s.session = .execute x) (hp : x.pos = .pollDsta)
    (hc : Admissible s.config) :
    takeTurn s = .next (
      if s.regs.dsta.xferfinish = true then
        (s.afterRead s.dstaRead).continueAt { x with dsta := s.dstaRead } .clearDone
      else if s.regs.dsta.datatimeout = true then
        failExecute .dataTimeout { x with dsta := s.dstaRead, c := some .timedOut } (s.afterRead s.dstaRead)
      else if x.n - 1 = 0 then
        failExecute .dataTimeout { x with dsta := s.dstaRead, n := x.n - 1, c := some .timedOut }
          (s.afterRead s.dstaRead)
      else (s.afterRead s.dstaRead).continueAt { x with dsta := s.dstaRead, n := x.n - 1 } .pollDsta) := by
  obtain ⟨hfinish, htimeout⟩ := dstaRead_bits hc
  rw [takeTurn_execute_access (i := .rdDsta) (u := s.afterRead s.dstaRead) hs (by simp only [executeTodo, hp]) rfl rfl,
    ← hfinish, ← htimeout]
  simp only [afterExecuteAccess, hp]
  rfl

/-- Settles O51: the four cases of `takeTurn_pollDsta`. -/
theorem completionPollTestsInOrder : Obligations.CompletionPollTestsInOrder := by
  intro x s hc hs hp ha l
  obtain ⟨hfinish, htimeout⟩ := dstaRead_bits hc
  refine ⟨s.dstaRead, hfinish, htimeout, fun hseen => ?seen, fun hnot hout => ?out, fun hnot hout hn => ?last,
    fun hnot hout hn => ?again⟩
  all_goals rw [step_empty ha, takeTurn_pollDsta hs hp hc]
  case seen => rw [if_pos hseen]; rfl
  all_goals rw [if_neg (Bool.eq_false_iff.mp hnot)]
  case out => rw [if_pos hout, failExecute_eq]; rfl
  all_goals rw [if_neg (Bool.eq_false_iff.mp hout)]
  case last => rw [if_pos (by omega), failExecute_eq, show x.n - 1 = 0 by omega]; rfl
  case again => rw [if_neg (by omega), continueAt_self (by exact hp)]; rfl

/-! ## The end of a transfer that finished -/

section
variable {x : ExecRun} {s : State} (hs : s.session = .execute x)
include hs

/-- A DSTA_DONE_CLEAR that names every flag clears them all (R308). -/
theorem takeTurn_clearDone (hp : x.pos = .clearDone) (hc : Admissible s.config)
    (hcovers : s.config.dstaDoneClear &&& maskOf s.config.layout.dsta.fields = maskOf s.config.layout.dsta.fields) :
    takeTurn s =
      .next ((s.setRegs { s.regs with dsta := ⟨false, false, false, false, false⟩ }).continueAt x .dataOff) := by
  rw [takeTurn_execute_access hs (by simp only [executeTodo, hp]) (exec_wrDsta s.config.dstaDoneClear s) rfl,
    clearDsta_covers hc.dsta hcovers]
  simp only [afterExecuteAccess, hp]

theorem takeTurn_dataOff (hp : x.pos = .dataOff) :
    takeTurn s = .next ((dataControlOff s).continueAt { x with c := some .finished } .finish) := by
  rw [takeTurn_execute_access hs (by simp only [executeTodo, hp]) (exec_wrDcon_zero s) rfl]
  simp only [afterExecuteAccess, hp]
  rfl

theorem takeTurn_finish (hp : x.pos = .finish) : takeTurn s = .next (returnSuccess x s) := by
  rw [takeTurn_silent (by rw [todo_execute hs]; simp only [executeTodo, hp])]
  simp only [silentStep, hs, hp]

end

/-- Settles O52: the poll sees XFERFINISH first, and the clear, the zero write and the end follow. -/
theorem lateDataErrorsGoUnreported : Obligations.LateDataErrorsGoUnreported := by
  intro x s hs hp ha hc hcovers hfinish
  have hpoll := takeTurn_pollDsta hs hp hc
  rw [if_pos hfinish] at hpoll
  refine ⟨s.dstaRead, (core_run_eq 4 s).trans ?_⟩
  generalize s.dstaRead = v at hpoll ⊢
  refine run_turn ha hpoll ?_
  refine run_turn ha (takeTurn_clearDone rfl rfl hc hcovers) ?_
  refine run_turn ha (takeTurn_dataOff rfl rfl) ?_
  refine run_turn ha (takeTurn_finish rfl rfl) ?_
  simp only [run, dataControlOff, returnSuccess, State.afterRead, State.continueAt, State.endSession, State.setHostWord,
    State.setDraws, State.setRegs, State.setDe, State.setSession, State.setResult, State.setPc, DconFields.zero]
  rfl

end Sys2Proof.Machine
end

section
/-! The FIFO loop of TRANSFER (R300 to R305, R343, R353, R401, R408): the words it moves in each direction, the hang without an event,
and the end at an error flag. -/

namespace Sys2Proof.Machine

open Host

/-! ## An error flag (R304, R343, R353) -/

section
variable {x : ExecRun} {s : State} (hs : s.session = .execute x)
include hs

theorem takeTurn_readDsta (hp : x.pos = .readDsta) :
    takeTurn s = .next ((s.afterRead s.dstaRead).continueAt { x with dsta := s.dstaRead } .readFsta) := by
  rw [takeTurn_execute_access (i := .rdDsta) (u := s.afterRead s.dstaRead) hs (by simp only [executeTodo, hp]) rfl rfl]
  simp only [afterExecuteAccess, hp]
  rfl

/-- With an error bit in the word of DSTA the second status read ends the transfer, whatever it returns. -/
theorem takeTurn_readFsta_error (hp : x.pos = .readFsta) (herr : errorBits s.config.layout.dsta x.dsta ≠ 0#32) :
    ∃ v t, takeTurn s = .next (failExecute
      (.dataError (errorSet s.config.layout.dsta (errorBits s.config.layout.dsta x.dsta)))
      { x with fsta := v, t := some t } (s.afterRead v)) := by
  refine ⟨mergeDraw (maskOf s.config.layout.fsta.fields) (fstaWord s.config s.fifo) (Config.freeWord s.draws),
    ⟨false, x.rem, errorBits s.config.layout.dsta x.dsta⟩, ?_⟩
  rw [takeTurn_execute_access (i := .rdFsta) hs (by simp only [executeTodo, hp]) rfl rfl]
  simp only [afterExecuteAccess, hp, afterStatus, State.setDraws_config, State.setHostWord_config, ne_eq, herr,
    not_false_eq_true, if_true, transferReturned, Bool.false_eq_true, if_false]
  rfl

end

/-- Settles O56: the two status reads, the failure they lead to, and its return. -/
theorem transferAbortsOnAnErrorFlag : Obligations.TransferAbortsOnAnErrorFlag := by
  intro x s hc hclear hs hp ha hflag
  have herr : errorBits s.config.layout.dsta s.dstaRead ≠ 0#32 := mt (errorBits_dsta_read hc.dsta _ _).mp hflag
  have hset : errorSet s.config.layout.dsta (errorBits s.config.layout.dsta s.dstaRead) = errorFlags s.regs.dsta :=
    errorSet_dsta_read hc.dsta _ _
  have hfirst := takeTurn_readDsta hs hp
  generalize s.dstaRead = a at herr hset hfirst
  obtain ⟨b, t, hsecond⟩ := takeTurn_readFsta_error (x := { x with dsta := a, pos := .readFsta })
    (s := (s.afterRead a).continueAt { x with dsta := a } .readFsta) rfl rfl herr
  refine ⟨b, (core_run_eq 3 s).trans ?_⟩
  refine run_turn ha hfirst ?_
  refine run_turn ha hsecond ?_
  refine (run_one (step_failExecute (by simpa using hclear) _ (by simpa using ha))).trans ?_
  simp only [hset, State.afterRead, State.continueAt, State.setHostWord, State.setDraws, State.setSession,
    State.setResult, State.setPc]
  rfl

/-! ## The loop between two iterations -/

/-- At the first status read of an iteration EXECUTE stands where the head of the loop sends it. -/
theorem loopHead_at_readDsta {x : ExecRun} {s : State} (hs : s.session = .execute x) (hp : x.pos = .readDsta)
    (hrem : x.rem ≠ 0) (hb : s.config.dataLoopBound = none) : loopHead x s = s := by
  rw [loopHead_more hrem hb, continueAt_self hp, setSession_self hs]

theorem SameButTransfer.trans {s t u : State} (h : SameButTransfer s t) (h' : SameButTransfer t u) :
    SameButTransfer s u :=
  ⟨h'.config.trans h.config, h'.regs.trans h.regs, h'.ce.trans h.ce, h'.de.trans h.de, h'.card.trans h.card,
    h'.pc.trans h.pc, h'.ctrl.trans h.ctrl, h'.clock.trans h.clock, h'.gpio.trans h.gpio, h'.result.trans h.result,
    h'.agenda.trans h.agenda⟩

theorem sameButTransfer_continueAt (s : State) (x : ExecRun) (pos : ExecPos) : SameButTransfer s (s.continueAt x pos) :=
  ⟨rfl, rfl, rfl, rfl, rfl, rfl, rfl, rfl, rfl, rfl, rfl⟩

/-! ## The hang (R304, R401) -/

/-- No word has moved between two heads of the loop. -/
structure NothingMoved (x : ExecRun) (s : State) (y : ExecRun) (t : State) : Prop where
  kept : SameButTransfer s t
  data : y.data = x.data
  off : y.off = x.off
  rem : y.rem = x.rem
  fifo : t.fifo = s.fifo
  buffer : t.buffer = s.buffer

theorem NothingMoved.refl (x : ExecRun) (s : State) : NothingMoved x s x s := by
  exact ⟨⟨rfl, rfl, rfl, rfl, rfl, rfl, rfl, rfl, rfl, rfl, rfl⟩, rfl, rfl, rfl, rfl, rfl⟩

/-- A stuck loop without DATA_LOOP_BOUND is still at its head after any number of iterations. -/
theorem loopHead_hangs {d : Descriptor} (k : Nat) {x : ExecRun} {s : State} (hstuck : LoopStuck d s)
    (hb : s.config.dataLoopBound = none) (hd : x.data = some d) (hrem : x.rem ≠ 0) :
    ∃ y t, run (2 * k) (loopHead x s) = .next (loopHead y t) ∧ NothingMoved x s y t := by
  induction k generalizing x s with
  | zero => exact ⟨x, s, rfl, .refl x s⟩
  | succ k ih =>
    rw [loopHead_more hrem hb]
    obtain ⟨y, u, hrun, hsame, hkept, hoff, hyrem, hfifo, hbuffer⟩ := iteration_nothing (s := s.continueAt x .readDsta)
      hstuck.admissible rfl hstuck.noEvent rfl hd hstuck.fits hstuck.noError hstuck.rx hstuck.tx
    obtain ⟨z, t, ht, hnothing⟩ := ih ((hstuck.continueAt _ _).of_same hsame hfifo)
      (by rw [hsame.config]; exact hb) (hkept.data.trans hd) (hyrem ▸ hrem)
    obtain ⟨hkept', hdata', hoff', hrem', hfifo', hbuffer'⟩ := hnothing
    refine ⟨z, t, ?_, ?_, hdata'.trans hkept.data, hoff'.trans hoff, hrem'.trans hyrem, hfifo'.trans hfifo,
      hbuffer'.trans hbuffer⟩
    · rw [show 2 * (k + 1) = 2 + 2 * k by omega, run_add 2 _ hrun, ht]
    · exact (sameButTransfer_continueAt s x _).trans (hsame.trans hkept')

/-- Settles O55: the head of the loop that `loopHead_hangs` comes back to sends EXECUTE to the status reads again. -/
theorem transferCanHangForEver : Obligations.TransferCanHangForEver := by
  intro k x d s hc hb hs hp hd hrem ha he hl hrx htx
  have hrem := Nat.pos_iff_ne_zero.mp hrem
  obtain ⟨y, t, hrun, hkept, hdata, hoff, hyrem, hfifo, hbuffer⟩ :=
    loopHead_hangs k ⟨hc, ha, he, hl, hrx, htx⟩ hb hd hrem
  rw [loopHead_at_readDsta hs hp hrem hb, loopHead_more (hyrem ▸ hrem) (by rw [hkept.config]; exact hb)] at hrun
  exact ⟨_, _, (core_run_eq _ _).trans hrun, rfl, rfl, hoff, hyrem, hdata, hkept.pc, hfifo, hbuffer, hkept.regs,
    hkept.de, hkept.result⟩

/-! ## Bytes of the buffer in order -/

/-- The buffer holds these bytes from an offset on. -/
def BytesAt (m : Memory) (off : Nat) (bs : List Byte) : Prop :=
  ∀ j (h : j < bs.length), readByte m (off + j) = bs[j]

theorem BytesAt.append {m : Memory} {off : Nat} {bs cs : List Byte} (hb : BytesAt m off bs)
    (hc : BytesAt m (off + bs.length) cs) : BytesAt m off (bs ++ cs) := by
  intro j hj
  rw [List.length_append] at hj
  by_cases hfirst : j < bs.length
  · rw [List.getElem_append_left hfirst]; exact hb j hfirst
  · have hrest := hc (j - bs.length) (by omega)
    rw [List.getElem_append_right (by omega), ← hrest]
    congr 1
    omega

/-- Bytes elsewhere do not matter. -/
theorem BytesAt.congr {m m' : Memory} {off : Nat} {bs : List Byte} (hb : BytesAt m off bs)
    (h : ∀ a, off ≤ a → a < off + bs.length → readByte m' a = readByte m a) : BytesAt m' off bs :=
  fun j hj => (h _ (Nat.le_add_right off j) (Nat.add_lt_add_left hj off)).trans (hb j hj)

/-- The four bytes of a word, least significant first. -/
theorem bytesAt_bytesOf {m : Memory} {off : Nat} {w : Word} (h : ∀ k, k < 4 → readByte m (off + k) = byteOf w k) :
    BytesAt m off (bytesOf w) := by
  intro j hj
  match j, hj with
  | 0, _ => exact h 0 (by decide)
  | 1, _ => exact h 1 (by decide)
  | 2, _ => exact h 2 (by decide)
  | 3, _ => exact h 3 (by decide)

theorem bytesAt_bufWrite32 {m : Memory} (hm : m.wf = true) (off : Nat) (w : Word) :
    BytesAt (bufWrite32 m off w) off (bytesOf w) :=
  bytesAt_bytesOf fun _ hk => readByte_bufWrite32_inside off w hk hm

theorem bytesAt_bufRead32 (m : Memory) (off : Nat) : BytesAt m off (bytesOf (bufRead32 m off)) := by
  obtain ⟨h0, h1, h2, h3⟩ := byteOf_wordOfBytes (readByte m off) (readByte m (off + 1)) (readByte m (off + 2))
    (readByte m (off + 3))
  refine bytesAt_bytesOf fun k hk => ?_
  match k, hk with
  | 0, _ => exact h0.symm
  | 1, _ => exact h1.symm
  | 2, _ => exact h2.symm
  | 3, _ => exact h3.symm

/-- A list of `4 (k + 1)` bytes starts with the four bytes of a word. -/
theorem exists_word_of_length {bs : List Byte} {k : Nat} (h : bs.length = 4 * (k + 1)) :
    ∃ b0 b1 b2 b3 cs, bs = b0 :: b1 :: b2 :: b3 :: cs ∧ cs.length = 4 * k := by
  match bs, h with
  | b0 :: b1 :: b2 :: b3 :: cs, h => exact ⟨b0, b1, b2, b3, cs, rfl, by simp only [List.length_cons] at h; omega⟩

theorem bytesOf_wordOfBytes (b0 b1 b2 b3 : Byte) : bytesOf (wordOfBytes b0 b1 b2 b3) = [b0, b1, b2, b3] := by
  obtain ⟨h0, h1, h2, h3⟩ := byteOf_wordOfBytes b0 b1 b2 b3
  rw [bytesOf, h0, h1, h2, h3]

/-! ## A loop that moves words -/

/-- The FIFO loop goes on by itself: no bound, no event, no error flag, and the bytes left lie inside the buffer. -/
structure LoopGoes (d : Descriptor) (x : ExecRun) (s : State) : Prop where
  admissible : Admissible s.config
  noBound : s.config.dataLoopBound = none
  noEvent : s.agenda = []
  noError : noErrorFlag s.regs.dsta
  data : x.data = some d
  inside : x.off + x.rem ≤ d.bufferLength

/-- An iteration that moved a word leaves the loop going. -/
theorem LoopGoes.next {d : Descriptor} {x y : ExecRun} {s t : State} (h : LoopGoes d x s) (hst : SameButTransfer s t)
    (hxy : SameRun x y) (hoff : y.off = x.off + 4) (hrem : y.rem = x.rem - 4) (h4 : 4 ≤ x.rem) : LoopGoes d y t := by
  obtain ⟨hc, hb, ha, he, hd, hin⟩ := h
  refine ⟨hst.config ▸ hc, hst.config ▸ hb, hst.agenda.trans ha, hst.regs ▸ he, hxy.data.trans hd, ?_⟩
  rw [hoff, hrem]
  omega

theorem LoopGoes.continueAt {d : Descriptor} {x : ExecRun} {s : State} (h : LoopGoes d x s) (pos : ExecPos) :
    LoopGoes d { x with pos := pos } (s.continueAt x pos) :=
  ⟨h.admissible, h.noBound, h.noEvent, h.noError, h.data, h.inside⟩

/-- While a word is left, the next one lies inside the buffer. -/
theorem LoopGoes.word_inside {d : Descriptor} {x : ExecRun} {s : State} (h : LoopGoes d x s) (h4 : 4 ≤ x.rem) :
    x.off + 4 ≤ d.bufferLength := by
  have hin := h.inside
  omega

/-- The transfer has succeeded and WAIT_COMPLETION is called next, with the rest of the block as before. -/
structure TransferDone (s t : State) : Prop where
  returned : ∃ y, t.session = .execute y ∧ y.pos = .callWait ∧ y.rem = 0 ∧ y.t = some ⟨true, 0, 0#32⟩
  pc : t.pc = .completionPhase
  regs : t.regs = s.regs
  ce : t.ce = s.ce
  de : t.de = s.de
  card : t.card = s.card
  ctrl : t.ctrl = s.ctrl

theorem TransferDone.of_same {s t u : State} (h : TransferDone t u) (hst : SameButTransfer s t) : TransferDone s u :=
  ⟨h.returned, h.pc, h.regs.trans hst.regs, h.ce.trans hst.ce, h.de.trans hst.de, h.card.trans hst.card,
    h.ctrl.trans hst.ctrl⟩

/-- With no byte left the head of the loop ends the transfer and touches neither FIFO nor buffer. -/
theorem loopHead_ends {x : ExecRun} {s : State} (hrem : x.rem = 0) :
    TransferDone s (loopHead x s) ∧ (loopHead x s).fifo = s.fifo ∧ (loopHead x s).buffer = s.buffer := by
  rw [loopHead_done hrem]
  exact ⟨⟨⟨_, rfl, rfl, rfl, rfl⟩, rfl, rfl, rfl, rfl, rfl, rfl⟩, rfl, rfl⟩

/-- The read path: three turns for each queued word (R301, R303, R305). -/
theorem loopHead_reads {d : Descriptor} (hdir : d.direction = .rx) (k : Nat) {x : ExecRun} {bs rest : List Byte} {s : State}
    (h : LoopGoes d x s) (hrem : x.rem = 4 * k) (hlen : bs.length = 4 * k) (hfifo : s.fifo = bs ++ rest)
    (hfits : s.fifo.length ≤ s.config.fifoDepth) (hwf : s.buffer.wf = true) :
    ∃ t, run (3 * k) (loopHead x s) = .next t ∧ TransferDone s t ∧ t.fifo = rest ∧ BytesAt t.buffer x.off bs ∧
      ∀ a, a < x.off ∨ x.off + 4 * k ≤ a → readByte t.buffer a = readByte s.buffer a := by
  induction k generalizing x bs s with
  | zero =>
    obtain rfl : bs = [] := List.length_eq_zero_iff.mp hlen
    obtain ⟨hdone, hf, hb⟩ := loopHead_ends (s := s) hrem
    exact ⟨_, rfl, hdone, hf.trans hfifo, nofun, fun a _ => by rw [hb]⟩
  | succ k ih =>
    obtain ⟨b0, b1, b2, b3, cs, rfl, hcs⟩ := exists_word_of_length hlen
    have h4 : 4 ≤ x.rem := by omega
    rw [loopHead_more (by omega) h.noBound]
    obtain ⟨y, u, hrun, hsame, hkept, hoff, hyrem, hufifo, hubuffer⟩ := iteration_read
      (s := s.continueAt x .readDsta) h.admissible rfl h.noEvent rfl h.data hdir (h.word_inside h4) hfits hfifo h.noError
    have hgoes := (h.continueAt .readDsta).next hsame hkept hoff hyrem h4
    have hfits' : u.fifo.length ≤ u.config.fifoDepth := by
      rw [hfifo] at hfits
      simp only [List.cons_append, List.length_cons] at hfits
      rw [hufifo, hsame.config]
      change (cs ++ rest).length ≤ s.config.fifoDepth
      omega
    have hwf' : u.buffer.wf = true := by rw [hubuffer]; exact wf_bufWrite32 _ _ hwf
    obtain ⟨t, ht, hdone, htfifo, hbytes, hother⟩ := ih hgoes (by rw [hyrem, hrem]; rfl) hcs hufifo hfits' hwf'
    have hoff' : y.off = x.off + 4 := hoff
    refine ⟨t, ?_, hdone.of_same ((sameButTransfer_continueAt s x _).trans hsame), htfifo, ?_, fun a ha => ?_⟩
    · rw [show 3 * (k + 1) = 3 + 3 * k by omega, run_add 3 _ hrun, ht]
    · rw [show b0 :: b1 :: b2 :: b3 :: cs = [b0, b1, b2, b3] ++ cs from rfl, ← bytesOf_wordOfBytes]
      refine ((bytesAt_bufWrite32 hwf x.off _).congr fun a _ hlt => ?_).append (hoff' ▸ hbytes)
      rw [hother a (.inl (hoff' ▸ hlt)), hubuffer]
      rfl
    · rw [hother a (by omega), hubuffer]
      exact readByte_bufWrite32_outside _ _ (by omega)

/-- The write path: three turns for each word while TFHALF stays set (R302, R303, R305, R408). -/
theorem loopHead_writes {d : Descriptor} (hdir : d.direction = .tx) (k : Nat) {x : ExecRun} {s : State}
    (h : LoopGoes d x s) (hrem : x.rem = 4 * k) (hroom : s.fifo.length + 4 * k ≤ s.config.txReadyLevel + 4) :
    ∃ t bs, run (3 * k) (loopHead x s) = .next t ∧ TransferDone s t ∧ t.fifo = s.fifo ++ bs ∧ bs.length = 4 * k ∧
      BytesAt s.buffer x.off bs ∧ t.buffer = s.buffer := by
  induction k generalizing x s with
  | zero =>
    obtain ⟨hdone, hf, hb⟩ := loopHead_ends (s := s) hrem
    exact ⟨_, [], rfl, hdone, by rw [hf, List.append_nil], rfl, nofun, hb⟩
  | succ k ih =>
    have h4 : 4 ≤ x.rem := by omega
    rw [loopHead_more (by omega) h.noBound]
    obtain ⟨y, u, hrun, hsame, hkept, hoff, hyrem, hufifo, hubuffer⟩ := iteration_write
      (s := s.continueAt x .readDsta) h.admissible rfl h.noEvent rfl h.data hdir (h.word_inside h4)
      (show s.fifo.length ≤ s.config.txReadyLevel by omega) h.noError
    have hgoes := (h.continueAt .readDsta).next hsame hkept hoff hyrem h4
    have hroom' : u.fifo.length + 4 * k ≤ u.config.txReadyLevel + 4 := by
      rw [hufifo, hsame.config, List.length_append]
      change s.fifo.length + 4 + 4 * k ≤ s.config.txReadyLevel + 4
      omega
    obtain ⟨t, bs, ht, hdone, htfifo, hlen, hbytes, hbuffer⟩ := ih hgoes (by rw [hyrem, hrem]; rfl) hroom'
    have hbytes' : BytesAt s.buffer (x.off + 4) bs := by rw [hoff, hubuffer] at hbytes; exact hbytes
    refine ⟨t, bytesOf (bufRead32 s.buffer x.off) ++ bs, ?_,
      hdone.of_same ((sameButTransfer_continueAt s x _).trans hsame), ?_, ?_,
      (bytesAt_bufRead32 s.buffer x.off).append hbytes', hbuffer.trans hubuffer⟩
    · rw [show 3 * (k + 1) = 3 + 3 * k by omega, run_add 3 _ hrun, ht]
    · rw [htfifo, hufifo, List.append_assoc]; rfl
    · rw [List.length_append, hlen, Nat.add_comm]; rfl

/-! ## The two paths from their first status read -/

/-- Inside an iteration the invariant says that the bytes left lie inside the buffer and that there are some (R133, R303). -/
theorem Inv.loopGoes {d : Descriptor} {x : ExecRun} {s : State} (h : Inv s) (hs : s.session = .execute x)
    (hp : x.pos = .readDsta) (hd : x.data = some d) (hb : s.config.dataLoopBound = none) (ha : s.agenda = [])
    (he : noErrorFlag s.regs.dsta) : LoopGoes d x s ∧ x.rem ≠ 0 := by
  obtain ⟨-, hsound⟩ := h.run_sound hs
  simp only [ExecRun.sound, hp] at hsound
  obtain ⟨-, hv, -, hacc, -, hmore⟩ := hsound
  obtain ⟨-, hcontract⟩ := hv d hd
  obtain ⟨-, hlength, -⟩ := (contract_iff s.config x.cmd d).mp hcontract
  refine ⟨⟨h.configAdmissible, hb, ha, he, hd, ?_⟩, Nat.pos_iff_ne_zero.mp hmore⟩
  rw [hlength, hacc, ExecRun.total, hd]

/-- Settles O53, by `loopHead_reads` from the head of the loop. -/
theorem transferReadMovesTheQueuedBytes : Obligations.TransferReadMovesTheQueuedBytes := by
  intro k x d bs rest s h hs hb hp hd hdir hrem hfifo hlen he ha
  obtain ⟨hgoes, hmore⟩ := h.loopGoes hs hp hd hb ha he
  obtain ⟨t, hrun, hdone, htfifo, hbytes, hother⟩ :=
    loopHead_reads hdir k hgoes hrem hlen hfifo h.fifoFits h.bufferWf
  rw [loopHead_at_readDsta hs hp hmore hb] at hrun
  obtain ⟨⟨y, hsession, hpos, hyrem, hyt⟩, hpc, hregs, hce, hde, hcard, hctrl⟩ := hdone
  exact ⟨t, y, (core_run_eq _ s).trans hrun, htfifo, hbytes, hother, hsession, hpos, hyrem, hyt, hpc, hregs, hce, hde,
    hcard, hctrl⟩

/-- Settles O54, by `loopHead_writes` from the head of the loop. -/
theorem transferWritePushesTheBufferBytes : Obligations.TransferWritePushesTheBufferBytes := by
  intro k x d s h hs hb hp hd hdir hrem hroom he ha
  obtain ⟨hgoes, hmore⟩ := h.loopGoes hs hp hd hb ha he
  obtain ⟨t, bs, hrun, hdone, htfifo, hlen, hbytes, hbuffer⟩ := loopHead_writes hdir k hgoes hrem hroom
  rw [loopHead_at_readDsta hs hp hmore hb] at hrun
  obtain ⟨⟨y, hsession, hpos, hyrem, hyt⟩, hpc, hregs, hce, hde, hcard, hctrl⟩ := hdone
  exact ⟨t, y, bs, (core_run_eq _ s).trans hrun, htfifo, hlen, fun j hj => (hbytes j hj).symm, hbuffer, hsession, hpos,
    hyrem, hyt, hpc, hregs, hce, hde, hcard, hctrl⟩

end Sys2Proof.Machine
end

section
/-! A whole EXECUTE without data (R281, R284, R290, R295): ISSUE up to its poll, the card's answer, and the way from the poll to
Success. -/

namespace Sys2Proof.Machine

open Host

/-! ## ISSUE without a descriptor -/

/-- A run whose next slot is a turn goes on with the state after the turn. -/
theorem run_slot_turn {k : Nat} {s t : State} {rest : List Slot} {r : Result} (ha : s.agenda = .turn :: rest)
    (h : takeTurn (s.setAgenda rest) = .next t) (hrun : run k t = r) : run (k + 1) s = r :=
  run_step ((step_slot ha).trans h) hrun

/-- The registers when ISSUE of a command without data begins its poll: flags clear, and the command armed. -/
def Regs.issued (r : Regs) (cmd : Command) : Regs :=
  { r with
    csta := ⟨false, false, false⟩
    dsta := ⟨false, false, false, false, false⟩
    carg := cmd.argument
    ccon := ⟨cmd.index, true, decide (cmd.kind ≠ .none), decide (cmd.kind = .long)⟩ }

/-- The state when ISSUE of a command without data begins its poll, with `rest` left on the agenda. -/
def State.issued (s : State) (x : ExecRun) (rest : List Slot) : State :=
  (((s.setRegs (s.regs.issued x.cmd)).setCe
    (.sending x.cmd.index x.cmd.argument (decide (x.cmd.kind ≠ .none)) (decide (x.cmd.kind = .long)))).setSession
      (.execute { x with n := s.config.cmdPollBound, pos := .pollCsta })).setAgenda rest

/-- The call of ISSUE and its five accesses without data, as the six turns in front of the agenda. -/
theorem run_issue_noData {x : ExecRun} {s : State} {rest : List Slot} (hc : Admissible s.config)
    (hs : s.session = .execute x) (hp : x.pos = .callIssue) (hd : x.data = none) (hce : s.ce = .idle)
    (ha : s.agenda = .turn :: .turn :: .turn :: .turn :: .turn :: .turn :: rest) :
    run 6 s = .next (s.issued x rest) := by
  refine run_slot_turn ha (takeTurn_callIssue hs hp) ?_
  refine run_slot_turn rfl (takeTurn_clearCsta rfl rfl hc) ?_
  refine run_slot_turn rfl (takeTurn_clearDsta rfl rfl hc) ?_
  refine run_slot_turn rfl (takeTurn_clearFsta rfl rfl) ?_
  refine run_slot_turn rfl (takeTurn_writeCarg rfl (by simp [hd])) ?_
  refine run_slot_turn rfl (takeTurn_writeCcon rfl rfl (by simpa using hc) (by simpa using hce)) ?_
  simp only [run, storeCcon, State.issued, Regs.issued, State.continueAt, State.setRegs, State.setCe, State.setSession,
    State.setAgenda]

/-! ## The card answers -/

/-- A run whose next slot is an event that happens goes on with the state after it. -/
theorem run_slot_event {k : Nat} {s t : State} {i : Instr} {rest : List Slot} {r : Result} (hc : Admissible s.config)
    (ha : s.agenda = .op (encode s.config i) :: rest) (hi : i.isEvent = true) (hw : i.wf = true)
    (h : exec i (s.setAgenda rest) = .next t) (hrun : run k t = r) : run (k + 1) s = r := by
  have hm : mayRun i (s.setAgenda rest) = true := by simp [mayRun, hi]
  refine run_step ((step_op ha (decodeOfEncodeIsTheOperation s.config i hc)).trans ?_) hrun
  rw [runInstr_eq_exec hw hm, h]

/-- The events by which the card answers a command of a kind. -/
def answerEvents (kind : RspKind) (w0 w1 w2 w3 : Word) : List Instr :=
  match kind with
  | .none => [.evCmdSent]
  | .short => [.evCmdSent, .evRspShort w0]
  | .long => [.evCmdSent, .evRspLong w0 w1 w2 w3]

/-- The response of that answer. -/
def answerResponse (kind : RspKind) (w0 w1 w2 w3 : Word) : Response :=
  match kind with
  | .none => .none
  | .short => .short w0
  | .long => .long w0 w1 w2 w3

/-- The response registers hold the response to a command of a kind. -/
def ResponseHeld (r : Regs) (kind : RspKind) (w0 w1 w2 w3 : Word) : Prop :=
  match kind with
  | .none => True
  | .short => r.rsp0 = some w0
  | .long => r.rsp0 = some w0 ∧ r.rsp1 = some w1 ∧ r.rsp2 = some w2 ∧ r.rsp3 = some w3

/-- The card has answered a command: the flag the poll waits for is set, the response registers hold the response, the command
engine is idle, and the rest of what EXECUTE without data reads or keeps is as before. -/
structure Answered (cmd : Command) (w0 w1 w2 w3 : Word) (s t : State) : Prop where
  config : t.config = s.config
  session : t.session = s.session
  agenda : t.agenda = []
  ce : t.ce = .idle
  expected : expectedFlag cmd.kind t.regs.csta = true
  held : ResponseHeld t.regs cmd.kind w0 w1 w2 w3
  dsta : t.regs.dsta = s.regs.dsta
  carg : t.regs.carg = s.regs.carg
  ccon : t.regs.ccon = s.regs.ccon
  dcon : t.regs.dcon = s.regs.dcon
  bsize : t.regs.bsize = s.regs.bsize
  fifo : t.fifo = s.fifo
  buffer : t.buffer = s.buffer
  ctrl : t.ctrl = s.ctrl
  card : ∃ frames, t.card = s.card ++ .cmdFrame cmd.index cmd.argument :: frames

/-- A command in the engine is answered by the events of its kind (R210 to R212). -/
theorem run_answerEvents {cmd : Command} {w0 w1 w2 w3 : Word} {s : State} (hc : Admissible s.config)
    (hce : s.ce = .sending cmd.index cmd.argument (decide (cmd.kind ≠ .none)) (decide (cmd.kind = .long)))
    (ha : s.agenda = (answerEvents cmd.kind w0 w1 w2 w3).map fun i => .op (encode s.config i)) :
    ∃ t, run (answerEvents cmd.kind w0 w1 w2 w3).length s = .next t ∧ Answered cmd w0 w1 w2 w3 s t := by
  obtain ⟨hsent, hresponse, -⟩ := commandEngineEvents
  obtain ⟨index, argument, kind⟩ := cmd
  cases kind with
  | none =>
    obtain ⟨de, hx, -⟩ := hsent _ _ _ _ (s.setAgenda []) hce
    refine ⟨_, run_slot_event hc ha rfl rfl hx rfl, ?_⟩
    constructor <;> simp [expectedFlag, ResponseHeld]
  | short =>
    obtain ⟨de, hx, -⟩ := hsent _ _ _ _ (s.setAgenda [.op (encode s.config (.evRspShort w0))]) hce
    generalize hu : State.setDe _ de = u at hx
    obtain ⟨de', -, -, hy, -⟩ := hresponse (u.setAgenda [])
    have hsecond := run_slot_event (s := u) (k := 0) (by subst hu; exact hc) (by subst hu; rfl) rfl rfl
      (hy w0 (by subst hu; rfl)) rfl
    refine ⟨_, run_slot_event hc ha rfl rfl hx hsecond, ?_⟩
    subst hu
    constructor <;> simp [expectedFlag, ResponseHeld]
  | long =>
    obtain ⟨de, hx, -⟩ := hsent _ _ _ _ (s.setAgenda [.op (encode s.config (.evRspLong w0 w1 w2 w3))]) hce
    generalize hu : State.setDe _ de = u at hx
    obtain ⟨de', -, -, -, hy⟩ := hresponse (u.setAgenda [])
    have hsecond := run_slot_event (s := u) (k := 0) (by subst hu; exact hc) (by subst hu; rfl) rfl rfl
      (hy w0 w1 w2 w3 (by subst hu; rfl)) rfl
    refine ⟨_, run_slot_event hc ha rfl rfl hx hsecond, ?_⟩
    subst hu
    constructor <;> simp [expectedFlag, ResponseHeld]

/-! ## From the poll to Success -/

/-- A flag of a word cut to the named fields. -/
theorem bitAt_and_maskOf {fs : List Field} (h : Fits fs) {n : Nat} (hn : flag n ∈ fs) (w : Word) :
    bitAt (w &&& maskOf fs) n = bitAt w n := by
  have hmask : bitAt (maskOf fs) n = true := bitAt_of_covers BitVec.and_self h hn
  rw [bitAt_eq_getLsbD] at hmask
  rw [bitAt_eq_getLsbD, BitVec.getLsbD_and, hmask, Bool.and_true, bitAt_eq_getLsbD]

/-- Writing back the flags of the moment clears them all (R161, R292). -/
theorem clearCsta_own {s : State} (hc : Admissible s.config) :
    clearCsta s.config.layout.csta s.regs.csta (s.cstaRead &&& maskOf s.config.layout.csta.fields) =
      ⟨false, false, false⟩ := by
  obtain ⟨hrspfin, htimeout, hcmdsent⟩ := cstaRead_bits hc
  have hbit : ∀ n, flag n ∈ s.config.layout.csta.fields →
      bitAt (s.cstaRead &&& maskOf s.config.layout.csta.fields) n = bitAt s.cstaRead n :=
    fun _ hn => bitAt_and_maskOf hc.csta hn _
  simp only [Config.CstaLayout.fields, List.mem_cons] at hbit
  simp [clearCsta, w1c, Config.CstaLayout.fields, hbit, hrspfin, htimeout, hcmdsent]

/-- EXECUTE has ended with Success. -/
def State.succeeded (s : State) (resp : Response) (rem : Nat) : State :=
  ((s.setSession .idle).setResult (some (.execute ⟨.success resp, resp, rem⟩))).setPc .idle

section
variable {x : ExecRun} {s : State} (hs : s.session = .execute x)
include hs

/-- The write of the flags that the poll has just read clears them (R290 step 5, R292). -/
theorem takeTurn_clearConsumed (hp : x.pos = .clearConsumed)
    (hown : clearCsta s.config.layout.csta s.regs.csta (x.csta &&& maskOf s.config.layout.csta.fields) =
      ⟨false, false, false⟩) :
    takeTurn s = .next ((s.setRegs { s.regs with csta := ⟨false, false, false⟩ }).continueAt
      { x with r := some (issueSuccess x.cmd.kind) } .callReadResponse) := by
  rw [takeTurn_execute_access hs (by simp only [executeTodo, hp])
    (exec_wrCsta (x.csta &&& maskOf s.config.layout.csta.fields) s) rfl, hown]
  simp only [afterExecuteAccess, hp]
  cases x.cmd.kind <;> rfl

/-! ## READ_RESPONSE register by register (R295) -/

theorem takeTurn_callReadResponse_none (hp : x.pos = .callReadResponse) (hk : x.cmd.kind = .none) :
    takeTurn s = .next (responseReturned .none x s) := by
  rw [takeTurn_execute_call (i := .readResponse .none) hs (by simp only [executeTodo, hp, hk]),
    exec_readResponse_none hs hp hk]

theorem takeTurn_callReadResponse_some (hp : x.pos = .callReadResponse) (hk : x.cmd.kind ≠ .none) :
    takeTurn s = .next (s.continueAt x .readRsp0) := by
  rw [takeTurn_execute_call (i := .readResponse x.cmd.kind) hs (by simp only [executeTodo, hp]),
    exec_readResponse_some hs hp hk]

variable {w : Word}

theorem takeTurn_readRsp0_short (hp : x.pos = .readRsp0) (hk : x.cmd.kind = .short) (hw : s.regs.rsp0 = some w) :
    takeTurn s = .next (responseReturned (.short w) x (s.setHostWord w)) := by
  rw [takeTurn_execute_access (i := .rdRsp0) hs (by simp only [executeTodo, hp]) (readResponseRegister_some hw s) rfl]
  simp only [afterExecuteAccess, hp, hk, State.setHostWord_hostWord]

theorem takeTurn_readRsp0_long (hp : x.pos = .readRsp0) (hk : x.cmd.kind = .long) (hw : s.regs.rsp0 = some w) :
    takeTurn s = .next ((s.setHostWord w).continueAt { x with resp := .long w 0#32 0#32 0#32 } .readRsp1) := by
  rw [takeTurn_execute_access (i := .rdRsp0) hs (by simp only [executeTodo, hp]) (readResponseRegister_some hw s) rfl]
  simp only [afterExecuteAccess, hp, hk, State.setHostWord_hostWord]

theorem takeTurn_readRsp1 (hp : x.pos = .readRsp1) (hw : s.regs.rsp1 = some w) :
    takeTurn s =
      .next ((s.setHostWord w).continueAt { x with resp := withResponseWord x.resp 1 w } .readRsp2) := by
  rw [takeTurn_execute_access (i := .rdRsp1) hs (by simp only [executeTodo, hp]) (readResponseRegister_some hw s) rfl]
  simp only [afterExecuteAccess, hp, State.setHostWord_hostWord]

theorem takeTurn_readRsp2 (hp : x.pos = .readRsp2) (hw : s.regs.rsp2 = some w) :
    takeTurn s =
      .next ((s.setHostWord w).continueAt { x with resp := withResponseWord x.resp 2 w } .readRsp3) := by
  rw [takeTurn_execute_access (i := .rdRsp2) hs (by simp only [executeTodo, hp]) (readResponseRegister_some hw s) rfl]
  simp only [afterExecuteAccess, hp, State.setHostWord_hostWord]

theorem takeTurn_readRsp3 (hp : x.pos = .readRsp3) (hw : s.regs.rsp3 = some w) :
    takeTurn s = .next (responseReturned (withResponseWord x.resp 3 w) x (s.setHostWord w)) := by
  rw [takeTurn_execute_access (i := .rdRsp3) hs (by simp only [executeTodo, hp]) (readResponseRegister_some hw s) rfl]
  simp only [afterExecuteAccess, hp, State.setHostWord_hostWord]

end

/-- With no data the return of READ_RESPONSE is followed by the silent end (R284). -/
theorem run_responseReturned {x : ExecRun} {s : State} (hd : x.data = none) (ha : s.agenda = []) (resp : Response) :
    run 1 (responseReturned resp x s) = .next (s.succeeded resp x.rem) := by
  rw [responseReturned_noData hd]
  refine run_turn ha (takeTurn_finish rfl rfl) ?_
  simp only [run, returnSuccess, State.succeeded, State.endSession, State.continueAt, State.setSession, State.setResult,
    State.setPc]

/-- From the call of READ_RESPONSE without data EXECUTE ends with the response that the registers hold. -/
theorem run_readResponse {x : ExecRun} {w0 w1 w2 w3 : Word} {s : State} (hs : s.session = .execute x)
    (hp : x.pos = .callReadResponse) (hd : x.data = none) (ha : s.agenda = [])
    (hheld : ResponseHeld s.regs x.cmd.kind w0 w1 w2 w3) :
    ∃ k v, run k s = .next ((s.setHostWord v).succeeded (answerResponse x.cmd.kind w0 w1 w2 w3) x.rem) := by
  cases hk : x.cmd.kind with
  | none =>
    exact ⟨2, s.hostWord, run_turn ha (takeTurn_callReadResponse_none hs hp hk) (run_responseReturned hd ha .none)⟩
  | short =>
    rw [hk] at hheld
    have hcall := takeTurn_callReadResponse_some hs hp (by simp [hk])
    have hread := takeTurn_readRsp0_short (s := s.continueAt x .readRsp0) rfl rfl hk hheld
    have hend := run_responseReturned (x := { x with pos := .readRsp0 })
      (s := (s.continueAt x .readRsp0).setHostWord w0) hd (by simp [ha]) (.short w0)
    refine ⟨3, w0, run_turn ha hcall (run_turn (by simp [ha]) hread (hend.trans ?_))⟩
    simp only [State.succeeded, State.continueAt, State.setHostWord, State.setSession, State.setResult, State.setPc,
      answerResponse]
  | long =>
    rw [hk] at hheld
    obtain ⟨h0, h1, h2, h3⟩ := hheld
    refine ⟨6, w3, ?_⟩
    refine run_turn ha (takeTurn_callReadResponse_some hs hp (by simp [hk])) ?_
    refine run_turn ha (takeTurn_readRsp0_long (x := { x with pos := .readRsp0 }) rfl rfl hk h0) ?_
    refine run_turn ha (takeTurn_readRsp1 rfl rfl h1) ?_
    refine run_turn (by simpa using ha) (takeTurn_readRsp2 rfl rfl (by simpa using h2)) ?_
    refine run_turn (by simpa using ha) (takeTurn_readRsp3 rfl rfl (by simpa using h3)) ?_
    refine (run_responseReturned hd (by simpa using ha) _).trans ?_
    simp only [State.succeeded, State.continueAt, State.setHostWord, State.setSession, State.setResult, State.setPc,
      answerResponse, withResponseWord]

/-- The state after the poll has seen its flag in the word `v` and has cleared what it read. -/
def State.consumed (s : State) (x : ExecRun) (v : Word) : State :=
  ((s.afterRead v).setRegs { s.regs with csta := ⟨false, false, false⟩ }).setSession
    (.execute { x with csta := v, r := some (issueSuccess x.cmd.kind), pos := .callReadResponse })

section
variable {x : ExecRun} {s : State} (hc : Admissible s.config) (hs : s.session = .execute x) (hp : x.pos = .pollCsta)
  (ha : s.agenda = []) (hseen : expectedFlag x.cmd.kind s.regs.csta = true)
include hc hs hp ha hseen

theorem run_consume : run 2 s = .next (s.consumed x s.cstaRead) := by
  have hown := clearCsta_own hc
  have hpoll := step_pollCsta_seen hc hs hp ha hseen
  generalize s.cstaRead = v at hown hpoll ⊢
  refine run_step hpoll ?_
  refine run_turn ha (takeTurn_clearConsumed rfl rfl hown) ?_
  simp only [run, State.consumed, State.afterRead, State.continueAt, State.setHostWord, State.setDraws, State.setRegs,
    State.setSession]

/-- From the poll of a command without data whose flag is set EXECUTE ends with Success and no flag of CSTA set. -/
theorem run_seen {w0 w1 w2 w3 : Word} (hd : x.data = none) (hheld : ResponseHeld s.regs x.cmd.kind w0 w1 w2 w3) :
    ∃ k v n, run k s = .next ((((s.setHostWord v).setDraws n).setRegs { s.regs with
      csta := ⟨false, false, false⟩ }).succeeded (answerResponse x.cmd.kind w0 w1 w2 w3) x.rem) := by
  obtain ⟨k, v, hrun⟩ := run_readResponse (s := s.consumed x s.cstaRead) rfl rfl hd ha hheld
  refine ⟨2 + k, v, s.draws + 1, (run_add 2 k (run_consume hc hs hp ha hseen)).trans (hrun.trans ?_)⟩
  simp only [State.succeeded, State.consumed, State.afterRead, State.setHostWord, State.setDraws, State.setRegs,
    State.setSession, State.setResult, State.setPc]

end

/-- Settles O59: ISSUE up to its poll, the card's answer, and from the poll to the end. -/
theorem executeWithoutDataSucceeds : Obligations.ExecuteWithoutDataSucceeds := by
  intro cmd w0 w1 w2 w3 s hc hready hce events resp ha
  have hstart := exec_execute_noData (cmd := cmd) hready
  have hissue := run_issue_noData (x := newRun cmd none 0) (s := beginExecute cmd none 0 s) hc rfl rfl rfl hce ha
  obtain ⟨t, hevents, hanswered⟩ := run_answerEvents (cmd := cmd) (w0 := w0) (w1 := w1) (w2 := w2) (w3 := w3)
    (s := (beginExecute cmd none 0 s).issued (newRun cmd none 0) (events.map fun i => .op (encode s.config i))) hc rfl rfl
  obtain ⟨hconfig, hsession, hagenda, htce, hexpected, hheld, hdsta, hcarg, hccon, hdcon, hbsize, hfifo, hbuffer, hctrl,
    hcard⟩ := hanswered
  obtain ⟨k, v, n, hseen⟩ := run_seen (hconfig ▸ hc) hsession rfl hagenda hexpected rfl hheld
  refine ⟨_, 6 + (_ + k), _, hstart, (core_run_eq _ _).trans
    ((run_add 6 _ hissue).trans ((run_add _ k hevents).trans hseen)), rfl, rfl, rfl, htce, rfl, hdsta, hcarg, hccon, hdcon,
    hbsize, hfifo, hbuffer, hctrl, hcard⟩

end Sys2Proof.Machine
end

section
/-! The machine without a ControllerState (R346, R380): what it refuses, and which states and steps leave it so. -/

namespace Sys2Proof.Machine

/-- A session operation that needs a ControllerState does not start without one (R346, R380). -/
theorem startRefusal_notProbed {s : State} (hs : s.session = .idle) (hp : s.pc = .idle) (hctrl : s.ctrl = none) :
    startRefusal true s = some .notProbed := by
  unfold startRefusal
  rw [if_pos ⟨hs, hp⟩, hctrl]
  rfl

/-- A PROBE without its base or without its clock stores its outcome and nothing else (R346). -/
theorem exec_probe_fails {binding : Binding} {s : State} (hs : s.session = .idle) (hp : s.pc = .idle)
    (hfail : binding.base = none ∨ s.clock.available = false) :
    ∃ r, exec (.probe binding) s = .next (s.setResult (some (.probe r))) := by
  cases hbase : binding.base with
  | none => exact ⟨_, exec_probe_missingBase hs hp hbase⟩
  | some base =>
    have hclock : s.clock.available = false := hfail.resolve_left (by simp [hbase])
    exact ⟨_, exec_probe_clockUnavailable hs hp hbase hclock⟩

/-- Settles O45: the start check of the session operations, the fields of a power-on state, and `exec_probe_fails`. -/
theorem nothingButProbeAfterPowerOn : Obligations.NothingButProbeAfterPowerOn := by
  refine ⟨fun cmd data target s hs hp hctrl => ?refused, fun c draw => ⟨rfl, rfl, rfl⟩,
    fun binding s hs hp hctrl hfail => ?failedProbe⟩
  case refused =>
    have hr := startRefusal_notProbed hs hp hctrl
    exact ⟨by simp [exec, execExecute, hr], by simp [exec, execSetClock, hr], by simp [exec, execCardPresent, hr],
      by simp [exec, execWriteProtected, hr]⟩
  case failedProbe =>
    obtain ⟨r, hprobe⟩ := exec_probe_fails hs hp hfail
    exact ⟨_, hprobe, hs, hp, hctrl⟩

end Sys2Proof.Machine
end
